-- ==== Sys2Proof/Word.lean ====
section
/-! DEFINITION. The word types of the machine (spec rules R8, R20, R124): what the spec treats as bits is a bit
vector, everything else is not. -/

namespace Sys2Proof

/-- A 32-bit word: the content of every register and the form of every address (R8). -/
abbrev Word := BitVec 32

/-- A byte of memory (R62: "The byte is 8 bits"). -/
abbrev Byte := BitVec 8

/-- A halfword, the unit of instruction fetch (R82). -/
abbrev Half := BitVec 16

/-- A register number of a 32-bit encoding, R0..R63 (R24, R124). -/
abbrev RegIdx := BitVec 6

/-- A register number of a 16-bit encoding, R0..R7 (R24, R124). -/
abbrev RegLow := BitVec 3

end Sys2Proof
end

