-- ==== Sys2Proof/Syntax.lean ====
section
/-! DEFINITION. The instructions: one constructor for each of the 85 rows of the opcode table (spec rule R135,
spec/opcode_table.json), with the operand fields of its format (R124, R127). A constructor whose name ends in 16 or
32 is the 16-bit or 32-bit row of a mnemonic that has both. -/

namespace Sys2Proof

/-- The sixteen condition codes (R126, R250), in the order of their numbers 0..15. -/
inductive Cond where
  | eq
  | ne
  | gtu
  | gteu
  | lteu
  | ltu
  | gt
  | gte
  | lt
  | lte
  | beq
  | bne
  | blt
  | blte
  | always
  | link
deriving DecidableEq, Repr

/-- The transfer size of a load or store (R124, R220), in the order of the field's values 0..3. -/
inductive Size where
  | byte
  | half
  | word
  | double
deriving DecidableEq, Repr

/-- An instruction, one constructor per row of the opcode table. -/
inductive Instr where
  /-- B<cond>, branch by a signed halfword displacement; cond 15 links; row BR16 of R135, meaning R251. -/
  | bcond16 (simm8 : BitVec 8) (cond : Cond)
  /-- B<cond>, branch by a signed halfword displacement; cond 15 links; row BR32 of R135, meaning R251. -/
  | bcond32 (simm24 : BitVec 24) (cond : Cond)
  /-- LDR, address `rn ± rm`; row LSX16 of R135, meaning R222. -/
  | ldrIndex16 (rd : RegLow) (rn : RegLow) (rm : RegLow) (size : Size)
  /-- LDR, address `rn ± rm`; row LSX32 of R135, meaning R222. -/
  | ldrIndex32 (rd : RegIdx) (rn : RegIdx) (rm : RegIdx) (size : Size) (sub : Bool)
  /-- LDR at `rn`, then `rn ± rm`; row LSP16 of R135, meaning R223. -/
  | ldrPost16 (rd : RegLow) (rn : RegLow) (rm : RegLow) (size : Size)
  /-- LDR at `rn`, then `rn ± rm`; row LSP32 of R135, meaning R223. -/
  | ldrPost32 (rd : RegIdx) (rn : RegIdx) (rm : RegIdx) (size : Size) (sub : Bool)
  /-- LDR, address `rn ±` scaled displacement; row LSD16 of R135, meaning R224. -/
  | ldrDisp16 (rd : RegLow) (rn : RegLow) (imm3 : BitVec 3) (size : Size)
  /-- LDR, address `rn ±` scaled displacement; row LSD32 of R135, meaning R224. -/
  | ldrDisp32 (rd : RegIdx) (rn : RegIdx) (imm11 : BitVec 11) (size : Size) (sub : Bool)
  /-- LDR at `rn`, then `rn ±` scaled displacement; row LSD32 of R135, meaning R225. -/
  | ldrDispPost (rd : RegIdx) (rn : RegIdx) (imm11 : BitVec 11) (size : Size) (sub : Bool)
  /-- STR, address `rn ± rm`; row LSX16 of R135, meaning R228. -/
  | strIndex16 (rd : RegLow) (rn : RegLow) (rm : RegLow) (size : Size)
  /-- STR, address `rn ± rm`; row LSX32 of R135, meaning R228. -/
  | strIndex32 (rd : RegIdx) (rn : RegIdx) (rm : RegIdx) (size : Size) (sub : Bool)
  /-- STR at `rn`, then `rn ± rm`; row LSP16 of R135, meaning R229. -/
  | strPost16 (rd : RegLow) (rn : RegLow) (rm : RegLow) (size : Size)
  /-- STR at `rn`, then `rn ± rm`; row LSP32 of R135, meaning R229. -/
  | strPost32 (rd : RegIdx) (rn : RegIdx) (rm : RegIdx) (size : Size) (sub : Bool)
  /-- STR, address `rn ±` scaled displacement; row LSD16 of R135, meaning R230. -/
  | strDisp16 (rd : RegLow) (rn : RegLow) (imm3 : BitVec 3) (size : Size)
  /-- STR, address `rn ±` scaled displacement; row LSD32 of R135, meaning R230. -/
  | strDisp32 (rd : RegIdx) (rn : RegIdx) (imm11 : BitVec 11) (size : Size) (sub : Bool)
  /-- STR at `rn`, then `rn ±` scaled displacement; row LSD32 of R135, meaning R231. -/
  | strDispPost (rd : RegIdx) (rn : RegIdx) (imm11 : BitVec 11) (size : Size) (sub : Bool)
  /-- TESTSET, the atomic read and conditional write; row LSX32 of R135, meaning R236. -/
  | testset (rd : RegIdx) (rn : RegIdx) (rm : RegIdx) (sub : Bool)
  /-- MOV, zero-extended immediate; row MOVI16 of R135, meaning R200. -/
  | movImm16 (rd : RegLow) (imm8 : BitVec 8)
  /-- MOV, zero-extended immediate; row MOVI32 of R135, meaning R200. -/
  | movImm32 (rd : RegIdx) (imm16 : BitVec 16)
  /-- MOVT, immediate to the high half; row MOVI32 of R135, meaning R201. -/
  | movt (rd : RegIdx) (imm16 : BitVec 16)
  /-- ADD, sign-extended immediate; row IMM16 of R135, meaning R162. -/
  | addImm16 (rd : RegLow) (rn : RegLow) (simm3 : BitVec 3)
  /-- ADD, sign-extended immediate; row IMM32 of R135, meaning R162. -/
  | addImm32 (rd : RegIdx) (rn : RegIdx) (simm11 : BitVec 11)
  /-- SUB, sign-extended immediate; row IMM16 of R135, meaning R164. -/
  | subImm16 (rd : RegLow) (rn : RegLow) (simm3 : BitVec 3)
  /-- SUB, sign-extended immediate; row IMM32 of R135, meaning R164. -/
  | subImm32 (rd : RegIdx) (rn : RegIdx) (simm11 : BitVec 11)
  /-- EOR; row ALU16 of R135, meaning R167. -/
  | eor16 (rd : RegLow) (rn : RegLow) (rm : RegLow)
  /-- EOR; row ALU32 of R135, meaning R167. -/
  | eor32 (rd : RegIdx) (rn : RegIdx) (rm : RegIdx)
  /-- ADD; row ALU16 of R135, meaning R161. -/
  | add16 (rd : RegLow) (rn : RegLow) (rm : RegLow)
  /-- ADD; row ALU32 of R135, meaning R161. -/
  | add32 (rd : RegIdx) (rn : RegIdx) (rm : RegIdx)
  /-- LSL; row ALU16 of R135, meaning R168. -/
  | lsl16 (rd : RegLow) (rn : RegLow) (rm : RegLow)
  /-- LSL; row ALU32 of R135, meaning R168. -/
  | lsl32 (rd : RegIdx) (rn : RegIdx) (rm : RegIdx)
  /-- SUB; row ALU16 of R135, meaning R163. -/
  | sub16 (rd : RegLow) (rn : RegLow) (rm : RegLow)
  /-- SUB; row ALU32 of R135, meaning R163. -/
  | sub32 (rd : RegIdx) (rn : RegIdx) (rm : RegIdx)
  /-- LSR; row ALU16 of R135, meaning R170. -/
  | lsr16 (rd : RegLow) (rn : RegLow) (rm : RegLow)
  /-- LSR; row ALU32 of R135, meaning R170. -/
  | lsr32 (rd : RegIdx) (rn : RegIdx) (rm : RegIdx)
  /-- AND; row ALU16 of R135, meaning R165. -/
  | and16 (rd : RegLow) (rn : RegLow) (rm : RegLow)
  /-- AND; row ALU32 of R135, meaning R165. -/
  | and32 (rd : RegIdx) (rn : RegIdx) (rm : RegIdx)
  /-- ASR; row ALU16 of R135, meaning R172. -/
  | asr16 (rd : RegLow) (rn : RegLow) (rm : RegLow)
  /-- ASR; row ALU32 of R135, meaning R172. -/
  | asr32 (rd : RegIdx) (rn : RegIdx) (rm : RegIdx)
  /-- ORR; row ALU16 of R135, meaning R166. -/
  | orr16 (rd : RegLow) (rn : RegLow) (rm : RegLow)
  /-- ORR; row ALU32 of R135, meaning R166. -/
  | orr32 (rd : RegIdx) (rn : RegIdx) (rm : RegIdx)
  /-- LSR by an immediate; row SHI16 of R135, meaning R171. -/
  | lsrImm16 (rd : RegLow) (rn : RegLow) (imm5 : BitVec 5)
  /-- LSR by an immediate; row SHI32 of R135, meaning R171. -/
  | lsrImm32 (rd : RegIdx) (rn : RegIdx) (imm5 : BitVec 5)
  /-- LSL by an immediate; row SHI16 of R135, meaning R169. -/
  | lslImm16 (rd : RegLow) (rn : RegLow) (imm5 : BitVec 5)
  /-- LSL by an immediate; row SHI32 of R135, meaning R169. -/
  | lslImm32 (rd : RegIdx) (rn : RegIdx) (imm5 : BitVec 5)
  /-- ASR by an immediate; row SHI16 of R135, meaning R173. -/
  | asrImm16 (rd : RegLow) (rn : RegLow) (imm5 : BitVec 5)
  /-- ASR by an immediate; row SHI32 of R135, meaning R173. -/
  | asrImm32 (rd : RegIdx) (rn : RegIdx) (imm5 : BitVec 5)
  /-- BITR, bit reverse; row SHI16 of R135, meaning R174. -/
  | bitr16 (rd : RegLow) (rn : RegLow)
  /-- BITR, bit reverse; row SHI32 of R135, meaning R174. -/
  | bitr32 (rd : RegIdx) (rn : RegIdx)
  /-- FADD; row FP16 of R135, meaning R277. -/
  | fadd16 (rd : RegLow) (rn : RegLow) (rm : RegLow)
  /-- FADD; row FP32 of R135, meaning R277. -/
  | fadd32 (rd : RegIdx) (rn : RegIdx) (rm : RegIdx)
  /-- FSUB; row FP16 of R135, meaning R278. -/
  | fsub16 (rd : RegLow) (rn : RegLow) (rm : RegLow)
  /-- FSUB; row FP32 of R135, meaning R278. -/
  | fsub32 (rd : RegIdx) (rn : RegIdx) (rm : RegIdx)
  /-- FMUL; row FP16 of R135, meaning R279. -/
  | fmul16 (rd : RegLow) (rn : RegLow) (rm : RegLow)
  /-- FMUL; row FP32 of R135, meaning R279. -/
  | fmul32 (rd : RegIdx) (rn : RegIdx) (rm : RegIdx)
  /-- FMADD; row FP16 of R135, meaning R280. -/
  | fmadd16 (rd : RegLow) (rn : RegLow) (rm : RegLow)
  /-- FMADD; row FP32 of R135, meaning R280. -/
  | fmadd32 (rd : RegIdx) (rn : RegIdx) (rm : RegIdx)
  /-- FMSUB; row FP16 of R135, meaning R281. -/
  | fmsub16 (rd : RegLow) (rn : RegLow) (rm : RegLow)
  /-- FMSUB; row FP32 of R135, meaning R281. -/
  | fmsub32 (rd : RegIdx) (rn : RegIdx) (rm : RegIdx)
  /-- FLOAT, signed integer to float; row FP16 of R135, meaning R282. -/
  | float16 (rd : RegLow) (rn : RegLow) (rm : RegLow)
  /-- FLOAT, signed integer to float; row FP32 of R135, meaning R282. -/
  | float32 (rd : RegIdx) (rn : RegIdx) (rm : RegIdx)
  /-- FIX, float to signed integer; row FP16 of R135, meaning R283. -/
  | fix16 (rd : RegLow) (rn : RegLow) (rm : RegLow)
  /-- FIX, float to signed integer; row FP32 of R135, meaning R283. -/
  | fix32 (rd : RegIdx) (rn : RegIdx) (rm : RegIdx)
  /-- FABS; row FP16 of R135, meaning R284. -/
  | fabs16 (rd : RegLow) (rn : RegLow) (rm : RegLow)
  /-- FABS; row FP32 of R135, meaning R284. -/
  | fabs32 (rd : RegIdx) (rn : RegIdx) (rm : RegIdx)
  /-- MOV<cond>, conditional register move; row MOVC16 of R135, meaning R202. -/
  | movCond16 (rd : RegLow) (rn : RegLow) (cond : Cond)
  /-- MOV<cond>, conditional register move; row MOVC32 of R135, meaning R202. -/
  | movCond32 (rd : RegIdx) (rn : RegIdx) (cond : Cond)
  /-- MOVTS, control register <- general register; row SYS16 of R135, meaning R204. -/
  | movts16 (rd : RegLow) (sn : BitVec 3)
  /-- MOVTS, control register <- general register; row SYS32 of R135, meaning R204. -/
  | movts32 (rd : RegIdx) (sn : BitVec 6) (group : BitVec 2)
  /-- MOVFS, general register <- control register; row SYS16 of R135, meaning R205. -/
  | movfs16 (rd : RegLow) (sn : BitVec 3)
  /-- MOVFS, general register <- control register; row SYS32 of R135, meaning R205. -/
  | movfs32 (rd : RegIdx) (sn : BitVec 6) (group : BitVec 2)
  /-- JR, jump to register; row JMP16 of R135, meaning R253. -/
  | jr16 (rn : RegLow)
  /-- JR, jump to register; row JMP32 of R135, meaning R253. -/
  | jr32 (rn : RegIdx)
  /-- JALR, jump to register and link; row JMP16 of R135, meaning R254. -/
  | jalr16 (rn : RegLow)
  /-- JALR, jump to register and link; row JMP32 of R135, meaning R254. -/
  | jalr32 (rn : RegIdx)
  /-- WAND, wired-AND; row SPC16 of R135, meaning R309. -/
  | wand
  /-- GIE, enable interrupts; row SPC16 of R135, meaning R306. -/
  | gie
  /-- NOP; row SPC16 of R135, meaning R300. -/
  | nop
  /-- IDLE; row SPC16 of R135, meaning R301. -/
  | idle
  /-- BKPT; row SPC16 of R135, meaning R304. -/
  | bkpt
  /-- RTI, return from interrupt; row SPC16 of R135, meaning R310. -/
  | rti
  /-- SYNC; row SPC16 of R135, meaning R308. -/
  | sync
  /-- GID, disable interrupts; row SPC16 of R135, meaning R307. -/
  | gid
  /-- MBKPT, breakpoint on every core; row SPC16 of R135, meaning R305. -/
  | mbkpt
  /-- SWI; the number is ignored by the hardware; row SPC16 of R135, meaning R313. -/
  | swi (num : BitVec 6)
  /-- TRAP; row SPC16 of R135, meaning R311. -/
  | trap (trapnum : BitVec 6)
deriving DecidableEq, Repr

end Sys2Proof
end

