-- ==== Sys2Proof/Config.lean ====
section
/-! DEFINITION. The implementation parameters of rule R5 as plain data (`Config`), the decode tables and extension
decoders among them, and the values the spec leaves open in a run as opaque constants. The values a run starts from
stand in Decode.lean (the tables) and Machine/Params.lean. -/

namespace Sys2Proof

/-- The architecture version `ARCH` (R2). -/
inductive Arch where
  | epiphanyIII
  | epiphanyIV
deriving DecidableEq, Repr

/-- The kernel collaborator's capability set (R5, R312: `None | SystemCalls | Debugging | All`). -/
inductive KernelCap where
  | none
  | systemCalls
  | debugging
  | all
deriving DecidableEq, Repr

/-- The values of ExceptionCause (R345). -/
inductive Cause where
  | unimplemented
  | softwareInterrupt
  | unalignedAccess
  | illegalAccess
  | floatingPoint
deriving DecidableEq, Repr

/-- A half-open range of local offsets, `lo` included and `hi` not (R5, R74). -/
structure OffsetRange where
  lo : Nat
  hi : Nat
deriving DecidableEq, Repr

/-- The parameters `EXCAUSE_*` (R345): one code a cause. On `EpiphanyIII` only bits 2:0 of a code are written. -/
structure CauseCodes where
  unimplemented : BitVec 4
  softwareInterrupt : BitVec 4
  unalignedAccess : BitVec 4
  illegalAccess : BitVec 4
  floatingPoint : BitVec 4
deriving DecidableEq, Repr

/-- The three points of the integer ALU the spec asks a model to hold as configuration (R180, U20).
All false is what rule R160 says. -/
structure AluConfig where
  /-- AC and AV are left unchanged (not cleared) by the logic and shift instructions. -/
  logicKeepsCarry : Bool
  /-- A register shift uses all of `rm`, not `rm[4:0]`. -/
  shiftFullCount : Bool
  /-- AC after a subtraction is 1 when there IS a borrow. -/
  subCarryIsBorrow : Bool
deriving DecidableEq, Repr

/-- The operations of `FpArith` (R273). -/
inductive FpArithOp where
  | fadd
  | fsub
  | fmul
  | fmadd
  | fmsub
deriving DecidableEq, Repr

/-- The float instructions of one operand (R282 to R284). -/
inductive FpUnaryOp where
  | float
  | fix
  | fabs
deriving DecidableEq, Repr

/-- A float result: its word and its events (R273). -/
structure FpResult where
  word : Word
  invalid : Bool
  overflow : Bool
  underflow : Bool
deriving DecidableEq, Repr, Inhabited

/-- The open points of the parameter `FpNumerics` for one version (R5, R287, R288, U24, U25). -/
structure FpConfig where
  /-- `QNAN_MAG[21:0]`; the bits above are ones (R272). -/
  qnanLow : BitVec 22
  /-- FMADD and FMSUB round once (R280). -/
  fused : Bool
  /-- An infinite operand alone is an overflow event (R273). -/
  infOperandOverflows : Bool
  /-- Overflow under truncation returns the largest finite number (R273). -/
  truncOverflowIsMax : Bool
  /-- A NaN operand of FABS is made quiet (R284 says it is not). -/
  fabsQuietsNan : Bool
  /-- FLOAT and FIX clear BV (R274). -/
  convClearsBv : Bool
  /-- Underflow is judged on the rounded result (R273). -/
  underflowAfterRounding : Bool
  /-- The instructions whose numeric path in this version is not that of 44_float.md (R287): of them only R285 is
  known. -/
  otherArith : List FpArithOp
  otherUnary : List FpUnaryOp
deriving DecidableEq, Repr

/-- The parameter `FpNumerics`, which takes `ARCH` as an argument (R287, U25): what it is on each version. -/
structure FpNumerics where
  iii : FpConfig
  iv : FpConfig
deriving DecidableEq, Repr

/-- `FpNumerics` of a version (R287). -/
def FpNumerics.options (n : FpNumerics) : Arch → FpConfig
  | .epiphanyIII => n.iii
  | .epiphanyIV => n.iv

/-- The register window: `REG_BASE`, its local offset, and `REG_WINDOW_SIZE`, its bytes (R5, R22, R30). -/
structure RegWindow where
  base : Nat
  size : Nat
deriving DecidableEq, Repr

/-- The link register `LR`, and what a 16-bit and a 32-bit instruction adds to its address for the link value
(R252, R254, R258, U21). -/
structure LinkConfig where
  reg : RegIdx
  after16 : Word
  after32 : Word
deriving DecidableEq, Repr

/-! ## Condition predicates (R250, R258, U21) -/

/-- A predicate over the six condition flags, as data. -/
inductive CondExpr where
  | tt
  | az
  | an
  | ac
  | av
  | bz
  | bn
  | not (p : CondExpr)
  | and (p q : CondExpr)
  | or (p q : CondExpr)
  /-- The two have the same truth value. -/
  | same (p q : CondExpr)
deriving DecidableEq, Repr

/-- The sixteen predicates, by condition code (R250). -/
structure CondTable where
  eq : CondExpr
  ne : CondExpr
  gtu : CondExpr
  gteu : CondExpr
  lteu : CondExpr
  ltu : CondExpr
  gt : CondExpr
  gte : CondExpr
  lt : CondExpr
  lte : CondExpr
  beq : CondExpr
  bne : CondExpr
  blt : CondExpr
  blte : CondExpr
  always : CondExpr
  link : CondExpr
deriving DecidableEq, Repr

/-! ## Decode tables (R123, R124, R135) and extension decoders (R145) -/

/-- The name of a row of the opcode table: that of its constructor of `Instr`. -/
inductive Op where
  | bcond16
  | bcond32
  | ldrIndex16
  | ldrIndex32
  | ldrPost16
  | ldrPost32
  | ldrDisp16
  | ldrDisp32
  | ldrDispPost
  | strIndex16
  | strIndex32
  | strPost16
  | strPost32
  | strDisp16
  | strDisp32
  | strDispPost
  | testset
  | movImm16
  | movImm32
  | movt
  | addImm16
  | addImm32
  | subImm16
  | subImm32
  | eor16
  | eor32
  | add16
  | add32
  | lsl16
  | lsl32
  | sub16
  | sub32
  | lsr16
  | lsr32
  | and16
  | and32
  | asr16
  | asr32
  | orr16
  | orr32
  | lsrImm16
  | lsrImm32
  | lslImm16
  | lslImm32
  | asrImm16
  | asrImm32
  | bitr16
  | bitr32
  | fadd16
  | fadd32
  | fsub16
  | fsub32
  | fmul16
  | fmul32
  | fmadd16
  | fmadd32
  | fmsub16
  | fmsub32
  | float16
  | float32
  | fix16
  | fix32
  | fabs16
  | fabs32
  | movCond16
  | movCond32
  | movts16
  | movts32
  | movfs16
  | movfs32
  | jr16
  | jr32
  | jalr16
  | jalr32
  | wand
  | gie
  | nop
  | idle
  | bkpt
  | rti
  | sync
  | gid
  | mbkpt
  | swi
  | trap
deriving DecidableEq, Repr

/-- `len` bits of an instruction word, from bit `lo` up (R124). -/
structure Segment where
  lo : Nat
  len : Nat
deriving DecidableEq, Repr

/-- An operand field: its segments, the most significant first (R124). -/
abbrev Field := List Segment

/-- A row of a decode table: a word `w` is the instruction `op` when `w AND mask = bits` (R123), its operands, in the
order of the constructor, being the fields. -/
structure TableRow (n : Nat) where
  mask : BitVec n
  bits : BitVec n
  op : Op
  fields : List Field
deriving DecidableEq, Repr

/-- A row of an extension decoder (R145): the words it takes, the number of the extension instruction they are, and
whether they pass that instruction's check. -/
structure ExtRow (n : Nat) where
  mask : BitVec n
  bits : BitVec n
  op : Nat
  valid : Bool
deriving DecidableEq, Repr

/-- An extension decoder, a partial function from words to extension instructions, by its rows in order (R145). -/
abbrev ExtDecoder (n : Nat) := List (ExtRow n)

/-- `DecodeTable`, and `ExtDecode16` and `ExtDecode32`, the extension decoders in the order they are tried (R5, R145). -/
structure DecodeConfig where
  table16 : List (TableRow 16)
  table32 : List (TableRow 32)
  ext16 : List (ExtDecoder 16)
  ext32 : List (ExtDecoder 32)
deriving DecidableEq, Repr

/-- The parameters of R5 that a run fixes. `LOCAL_SIZE` and the interrupt levels the source fixes are constants of
Machine/Params.lean. -/
structure Config where
  arch : Arch
  /-- `ROWS` and `COLS`, each 1..64. -/
  rows : Nat
  cols : Nat
  /-- `EXT_BASE`, the first address of external memory, and `EXT_SIZE`, its bytes. -/
  extBase : Nat
  extSize : Nat
  /-- `REG_BASE` and `REG_WINDOW_SIZE`. -/
  window : RegWindow
  reservedA : OffsetRange
  reservedB : OffsetRange
  vectorBase : Word
  /-- The interrupt levels among 3..7 that some agent raises (R340, U15). -/
  irqDma0 : Fin 9
  irqDma1 : Fin 9
  irqWand : Fin 9
  causes : CauseCodes
  /-- `CONFIG_KM_EN`: the CONFIG bit that makes interrupt entry switch to kernel mode, or absent (R36). -/
  kmEn : Option (Fin 32)
  /-- `DecodeTable`, `ExtDecode16`, `ExtDecode32`. -/
  decode : DecodeConfig
  /-- The companion data of the decode table (U21): the condition predicates, and `LR` with the link value. -/
  conds : CondTable
  link : LinkConfig
  kernel : KernelCap
  alu : AluConfig
  fp : FpNumerics
deriving DecidableEq, Repr

/-- A CoreId: (row, column), each 0..63 (R6, R12). -/
structure CoreId where
  row : BitVec 6
  col : BitVec 6
deriving DecidableEq, Repr

/-- A core's place in the list of cores: `row * 64 + col`, the number an address carries in bits 31:20 (R63). -/
def CoreId.key (c : CoreId) : Nat := c.row.toNat * 64 + c.col.toNat

/-- The control signal an instruction returns (R10). -/
inductive Signal where
  | next
  | none
  | idle
deriving DecidableEq, Repr, Inhabited

/-- The width of one memory access: 1, 2 or 4 bytes (R84, R85). -/
inductive Access where
  | b1
  | b2
  | b4
deriving DecidableEq, Repr

/-- One write the kernel makes "as a host" during a system call, issued as a core it names (R312, R372). -/
structure KernelWrite where
  core : CoreId
  addr : Word
  size : Access
  value : Word
deriving DecidableEq, Repr

/-- What a system call gives back: the four register values and the memory writes it made (R312). -/
structure SyscallReply where
  b0 : Word
  b1 : Word
  b2 : Word
  b3 : Word
  writes : List KernelWrite
deriving DecidableEq, Repr, Inhabited

/-- One act of an extension instruction's execute, a primitive of R9: an engine's own write of a word of the register
window (R31 (b)), `MemRead`, `MemWrite`, `Trigger`. -/
inductive ExtAct where
  | setWord (k : BitVec 9) (v : Word)
  | read (addr : Word) (size : Access)
  | write (addr : Word) (size : Access) (v : Word)
  | trigger (c : CoreId) (irq : Fin 9) (cause : Option Cause)
deriving DecidableEq, Repr

/-- What an extension instruction's execute comes to: its acts in order, and its control signal (R145). -/
structure ExtReply where
  acts : List ExtAct
  signal : Signal
deriving DecidableEq, Repr, Inhabited

namespace Config

/-- The kernel's answer to a system call (R312, U17: "an oracle"), a FREE VALUE: a function of a counter that
every call advances, the calling core, the four words, and the bytes that each core's addresses read as. -/
opaque systemCall (fresh : Nat) (core : CoreId) (a0 a1 a2 a3 : Word) (memory : CoreId → Word → Byte) : SyscallReply

/-- The execute of extension instruction `op` (R145, U4), a FREE VALUE: a function of a counter that every such
instruction advances, the instruction word, the executing core, and the bytes that each core's addresses read as. -/
opaque extExecute (fresh op : Nat) (word : Word) (core : CoreId) (memory : CoreId → Word → Byte) : ExtReply

/-- The sign of the NaN that FMADD or FMSUB produces (R275, U23: "any value"), a FREE VALUE: a function of a
counter that every such instruction advances and of the three operands. -/
opaque fmaNanSign (fresh : Nat) (a b c : Word) : Bool

/-- The result of an arithmetic float instruction that has another numeric path on a version (R287, U25), a FREE VALUE:
a function of the version, the operation, RMODE and the flushed operands. -/
opaque arithPath (arch : Arch) (op : FpArithOp) (trunc : Bool) (a b c : Word) : FpResult

/-- The same for a float instruction of one operand (R287, U25), a FREE VALUE. -/
opaque unaryPath (arch : Arch) (op : FpUnaryOp) (trunc : Bool) (a : Word) : FpResult

end Config

end Sys2Proof
end

