-- ==== Sys2Proof/WellFormed.lean ====
section
/-! DEFINITION. `check()`, the encoding-level constraints K1, K2, K3 of spec rule R140, applied after decoding and
before execution (R11). -/

namespace Sys2Proof

/-- K1 (R140, R286): the `rm` field of FLOAT, FIX and FABS equals the `rn` field. -/
def checkUnary {n : Nat} (rn rm : BitVec n) : Bool := rm == rn

/-- K2 (R140, R221): a doubleword transfer names an even `rd`. -/
def checkPair {n : Nat} (rd : BitVec n) (size : Size) : Bool := size != .double || !rd.getLsbD 0

/-- K3 (R140, R142): a conditional move does not carry the link condition. -/
def checkMove (cond : Cond) : Bool := cond != .link

/-- `check()` of rule R11: does the decoded instruction satisfy K1 to K3? -/
def Instr.check : Instr → Bool
  | .bcond16 _ _ => true
  | .bcond32 _ _ => true
  | .ldrIndex16 rd _ _ size => checkPair rd size
  | .ldrIndex32 rd _ _ size _ => checkPair rd size
  | .ldrPost16 rd _ _ size => checkPair rd size
  | .ldrPost32 rd _ _ size _ => checkPair rd size
  | .ldrDisp16 rd _ _ size => checkPair rd size
  | .ldrDisp32 rd _ _ size _ => checkPair rd size
  | .ldrDispPost rd _ _ size _ => checkPair rd size
  | .strIndex16 rd _ _ size => checkPair rd size
  | .strIndex32 rd _ _ size _ => checkPair rd size
  | .strPost16 rd _ _ size => checkPair rd size
  | .strPost32 rd _ _ size _ => checkPair rd size
  | .strDisp16 rd _ _ size => checkPair rd size
  | .strDisp32 rd _ _ size _ => checkPair rd size
  | .strDispPost rd _ _ size _ => checkPair rd size
  | .testset _ _ _ _ => true
  | .movImm16 _ _ => true
  | .movImm32 _ _ => true
  | .movt _ _ => true
  | .addImm16 _ _ _ => true
  | .addImm32 _ _ _ => true
  | .subImm16 _ _ _ => true
  | .subImm32 _ _ _ => true
  | .eor16 _ _ _ => true
  | .eor32 _ _ _ => true
  | .add16 _ _ _ => true
  | .add32 _ _ _ => true
  | .lsl16 _ _ _ => true
  | .lsl32 _ _ _ => true
  | .sub16 _ _ _ => true
  | .sub32 _ _ _ => true
  | .lsr16 _ _ _ => true
  | .lsr32 _ _ _ => true
  | .and16 _ _ _ => true
  | .and32 _ _ _ => true
  | .asr16 _ _ _ => true
  | .asr32 _ _ _ => true
  | .orr16 _ _ _ => true
  | .orr32 _ _ _ => true
  | .lsrImm16 _ _ _ => true
  | .lsrImm32 _ _ _ => true
  | .lslImm16 _ _ _ => true
  | .lslImm32 _ _ _ => true
  | .asrImm16 _ _ _ => true
  | .asrImm32 _ _ _ => true
  | .bitr16 _ _ => true
  | .bitr32 _ _ => true
  | .fadd16 _ _ _ => true
  | .fadd32 _ _ _ => true
  | .fsub16 _ _ _ => true
  | .fsub32 _ _ _ => true
  | .fmul16 _ _ _ => true
  | .fmul32 _ _ _ => true
  | .fmadd16 _ _ _ => true
  | .fmadd32 _ _ _ => true
  | .fmsub16 _ _ _ => true
  | .fmsub32 _ _ _ => true
  | .float16 _ rn rm => checkUnary rn rm
  | .float32 _ rn rm => checkUnary rn rm
  | .fix16 _ rn rm => checkUnary rn rm
  | .fix32 _ rn rm => checkUnary rn rm
  | .fabs16 _ rn rm => checkUnary rn rm
  | .fabs32 _ rn rm => checkUnary rn rm
  | .movCond16 _ _ cond => checkMove cond
  | .movCond32 _ _ cond => checkMove cond
  | .movts16 _ _ => true
  | .movts32 _ _ _ => true
  | .movfs16 _ _ => true
  | .movfs32 _ _ _ => true
  | .jr16 _ => true
  | .jr32 _ => true
  | .jalr16 _ => true
  | .jalr32 _ => true
  | .wand => true
  | .gie => true
  | .nop => true
  | .idle => true
  | .bkpt => true
  | .rti => true
  | .sync => true
  | .gid => true
  | .mbkpt => true
  | .swi _ => true
  | .trap _ => true

/-- A well-formed instruction: one whose `check()` passes. -/
abbrev Instr.WellFormed (i : Instr) : Prop := i.check = true

end Sys2Proof
end

