-- ==== Sys2Proof/Decode.lean ====
section
/-! DEFINITION. The decoder (spec file 30_encoding.md): the opcode tables of rule R135 row by row, the two entry
points of R121, the decoder over bytes, and after it the encoder, with the field helpers both use. -/

namespace Sys2Proof

/-! ## Fields (R124, R125) -/

/-- The value of a field of a word: its segments joined, the first the most significant. -/
def getField {n : Nat} (k : Nat) (w : BitVec n) : Field → BitVec k
  | [] => 0
  | g :: f => ((w.extractLsb' g.lo g.len).setWidth k <<< (f.map Segment.len).sum) ||| getField k w f

/-- `rd`, `rn` (or `sn`) and `rm` (or a 3-bit immediate) of a 16-bit word. -/
def rd16 : Field := [⟨13, 3⟩]
def rn16 : Field := [⟨10, 3⟩]
def rm16 : Field := [⟨7, 3⟩]

/-- `rd`, `rn` (or `sn`) and `rm` of a 32-bit word: three high bits, three low bits. -/
def rd32 : Field := [⟨29, 3⟩, ⟨13, 3⟩]
def rn32 : Field := [⟨26, 3⟩, ⟨10, 3⟩]
def rm32 : Field := [⟨23, 3⟩, ⟨7, 3⟩]

/-- `imm11` and `simm11`: bits 23:16 then 9:7. -/
def imm11 : Field := [⟨16, 8⟩, ⟨7, 3⟩]

/-- `imm16`: bits 27:20 then 12:5. -/
def imm16 : Field := [⟨20, 8⟩, ⟨5, 8⟩]

/-- A field of `len` bits from bit `lo`. -/
def bitsAt (lo len : Nat) : Field := [⟨lo, len⟩]

/-- The condition code a `cond` field holds (R126). -/
def condOf (b : BitVec 4) : Cond :=
  match b.toNat with
  | 0 => .eq
  | 1 => .ne
  | 2 => .gtu
  | 3 => .gteu
  | 4 => .lteu
  | 5 => .ltu
  | 6 => .gt
  | 7 => .gte
  | 8 => .lt
  | 9 => .lte
  | 10 => .beq
  | 11 => .bne
  | 12 => .blt
  | 13 => .blte
  | 14 => .always
  | _ => .link

/-- The transfer size a `size` field holds (R220). -/
def sizeOf (b : BitVec 2) : Size :=
  match b.toNat with
  | 0 => .byte
  | 1 => .half
  | 2 => .word
  | _ => .double

/-! ## The opcode tables (R123, R135) -/

/-- The instruction of a row's name with its operands, `f k j` being field `j` as a number of `k` bits. -/
def Op.build (op : Op) (f : (k : Nat) → Nat → BitVec k) : Instr :=
  match op with
  | .bcond16 => .bcond16 (f 8 0) (condOf (f 4 1))
  | .bcond32 => .bcond32 (f 24 0) (condOf (f 4 1))
  | .ldrIndex16 => .ldrIndex16 (f 3 0) (f 3 1) (f 3 2) (sizeOf (f 2 3))
  | .ldrIndex32 => .ldrIndex32 (f 6 0) (f 6 1) (f 6 2) (sizeOf (f 2 3)) ((f 1 4).getLsbD 0)
  | .ldrPost16 => .ldrPost16 (f 3 0) (f 3 1) (f 3 2) (sizeOf (f 2 3))
  | .ldrPost32 => .ldrPost32 (f 6 0) (f 6 1) (f 6 2) (sizeOf (f 2 3)) ((f 1 4).getLsbD 0)
  | .ldrDisp16 => .ldrDisp16 (f 3 0) (f 3 1) (f 3 2) (sizeOf (f 2 3))
  | .ldrDisp32 => .ldrDisp32 (f 6 0) (f 6 1) (f 11 2) (sizeOf (f 2 3)) ((f 1 4).getLsbD 0)
  | .ldrDispPost => .ldrDispPost (f 6 0) (f 6 1) (f 11 2) (sizeOf (f 2 3)) ((f 1 4).getLsbD 0)
  | .strIndex16 => .strIndex16 (f 3 0) (f 3 1) (f 3 2) (sizeOf (f 2 3))
  | .strIndex32 => .strIndex32 (f 6 0) (f 6 1) (f 6 2) (sizeOf (f 2 3)) ((f 1 4).getLsbD 0)
  | .strPost16 => .strPost16 (f 3 0) (f 3 1) (f 3 2) (sizeOf (f 2 3))
  | .strPost32 => .strPost32 (f 6 0) (f 6 1) (f 6 2) (sizeOf (f 2 3)) ((f 1 4).getLsbD 0)
  | .strDisp16 => .strDisp16 (f 3 0) (f 3 1) (f 3 2) (sizeOf (f 2 3))
  | .strDisp32 => .strDisp32 (f 6 0) (f 6 1) (f 11 2) (sizeOf (f 2 3)) ((f 1 4).getLsbD 0)
  | .strDispPost => .strDispPost (f 6 0) (f 6 1) (f 11 2) (sizeOf (f 2 3)) ((f 1 4).getLsbD 0)
  | .testset => .testset (f 6 0) (f 6 1) (f 6 2) ((f 1 3).getLsbD 0)
  | .movImm16 => .movImm16 (f 3 0) (f 8 1)
  | .movImm32 => .movImm32 (f 6 0) (f 16 1)
  | .movt => .movt (f 6 0) (f 16 1)
  | .addImm16 => .addImm16 (f 3 0) (f 3 1) (f 3 2)
  | .addImm32 => .addImm32 (f 6 0) (f 6 1) (f 11 2)
  | .subImm16 => .subImm16 (f 3 0) (f 3 1) (f 3 2)
  | .subImm32 => .subImm32 (f 6 0) (f 6 1) (f 11 2)
  | .eor16 => .eor16 (f 3 0) (f 3 1) (f 3 2)
  | .eor32 => .eor32 (f 6 0) (f 6 1) (f 6 2)
  | .add16 => .add16 (f 3 0) (f 3 1) (f 3 2)
  | .add32 => .add32 (f 6 0) (f 6 1) (f 6 2)
  | .lsl16 => .lsl16 (f 3 0) (f 3 1) (f 3 2)
  | .lsl32 => .lsl32 (f 6 0) (f 6 1) (f 6 2)
  | .sub16 => .sub16 (f 3 0) (f 3 1) (f 3 2)
  | .sub32 => .sub32 (f 6 0) (f 6 1) (f 6 2)
  | .lsr16 => .lsr16 (f 3 0) (f 3 1) (f 3 2)
  | .lsr32 => .lsr32 (f 6 0) (f 6 1) (f 6 2)
  | .and16 => .and16 (f 3 0) (f 3 1) (f 3 2)
  | .and32 => .and32 (f 6 0) (f 6 1) (f 6 2)
  | .asr16 => .asr16 (f 3 0) (f 3 1) (f 3 2)
  | .asr32 => .asr32 (f 6 0) (f 6 1) (f 6 2)
  | .orr16 => .orr16 (f 3 0) (f 3 1) (f 3 2)
  | .orr32 => .orr32 (f 6 0) (f 6 1) (f 6 2)
  | .lsrImm16 => .lsrImm16 (f 3 0) (f 3 1) (f 5 2)
  | .lsrImm32 => .lsrImm32 (f 6 0) (f 6 1) (f 5 2)
  | .lslImm16 => .lslImm16 (f 3 0) (f 3 1) (f 5 2)
  | .lslImm32 => .lslImm32 (f 6 0) (f 6 1) (f 5 2)
  | .asrImm16 => .asrImm16 (f 3 0) (f 3 1) (f 5 2)
  | .asrImm32 => .asrImm32 (f 6 0) (f 6 1) (f 5 2)
  | .bitr16 => .bitr16 (f 3 0) (f 3 1)
  | .bitr32 => .bitr32 (f 6 0) (f 6 1)
  | .fadd16 => .fadd16 (f 3 0) (f 3 1) (f 3 2)
  | .fadd32 => .fadd32 (f 6 0) (f 6 1) (f 6 2)
  | .fsub16 => .fsub16 (f 3 0) (f 3 1) (f 3 2)
  | .fsub32 => .fsub32 (f 6 0) (f 6 1) (f 6 2)
  | .fmul16 => .fmul16 (f 3 0) (f 3 1) (f 3 2)
  | .fmul32 => .fmul32 (f 6 0) (f 6 1) (f 6 2)
  | .fmadd16 => .fmadd16 (f 3 0) (f 3 1) (f 3 2)
  | .fmadd32 => .fmadd32 (f 6 0) (f 6 1) (f 6 2)
  | .fmsub16 => .fmsub16 (f 3 0) (f 3 1) (f 3 2)
  | .fmsub32 => .fmsub32 (f 6 0) (f 6 1) (f 6 2)
  | .float16 => .float16 (f 3 0) (f 3 1) (f 3 2)
  | .float32 => .float32 (f 6 0) (f 6 1) (f 6 2)
  | .fix16 => .fix16 (f 3 0) (f 3 1) (f 3 2)
  | .fix32 => .fix32 (f 6 0) (f 6 1) (f 6 2)
  | .fabs16 => .fabs16 (f 3 0) (f 3 1) (f 3 2)
  | .fabs32 => .fabs32 (f 6 0) (f 6 1) (f 6 2)
  | .movCond16 => .movCond16 (f 3 0) (f 3 1) (condOf (f 4 2))
  | .movCond32 => .movCond32 (f 6 0) (f 6 1) (condOf (f 4 2))
  | .movts16 => .movts16 (f 3 0) (f 3 1)
  | .movts32 => .movts32 (f 6 0) (f 6 1) (f 2 2)
  | .movfs16 => .movfs16 (f 3 0) (f 3 1)
  | .movfs32 => .movfs32 (f 6 0) (f 6 1) (f 2 2)
  | .jr16 => .jr16 (f 3 0)
  | .jr32 => .jr32 (f 6 0)
  | .jalr16 => .jalr16 (f 3 0)
  | .jalr32 => .jalr32 (f 6 0)
  | .wand => .wand
  | .gie => .gie
  | .nop => .nop
  | .idle => .idle
  | .bkpt => .bkpt
  | .rti => .rti
  | .sync => .sync
  | .gid => .gid
  | .mbkpt => .mbkpt
  | .swi => .swi (f 6 0)
  | .trap => .trap (f 6 0)

/-- The instruction a word is under a row that it matches. -/
def TableRow.build {n : Nat} (r : TableRow n) (w : BitVec n) : Instr :=
  r.op.build fun k j => getField k w (r.fields.getD j [])

/-- The rows of format BR16 (R127, R135). -/
def rowsBR16 : List (TableRow 16) := [
  ⟨0x000F#16, 0x0000#16, .bcond16, [bitsAt 8 8, bitsAt 4 4]⟩]

/-- The rows of format BR32 (R127, R135). -/
def rowsBR32 : List (TableRow 32) := [
  ⟨0x0000000F#32, 0x00000008#32, .bcond32, [bitsAt 8 24, bitsAt 4 4]⟩]

/-- The rows of format LSX16 (R127, R135). -/
def rowsLSX16 : List (TableRow 16) := [
  ⟨0x001F#16, 0x0001#16, .ldrIndex16, [rd16, rn16, rm16, bitsAt 5 2]⟩,
  ⟨0x001F#16, 0x0011#16, .strIndex16, [rd16, rn16, rm16, bitsAt 5 2]⟩]

/-- The rows of format LSX32 (R127, R135). -/
def rowsLSX32 : List (TableRow 32) := [
  ⟨0x0060001F#32, 0x00000009#32, .ldrIndex32, [rd32, rn32, rm32, bitsAt 5 2, bitsAt 20 1]⟩,
  ⟨0x0060001F#32, 0x00000019#32, .strIndex32, [rd32, rn32, rm32, bitsAt 5 2, bitsAt 20 1]⟩,
  ⟨0x0060007F#32, 0x00200049#32, .testset, [rd32, rn32, rm32, bitsAt 20 1]⟩]

/-- The rows of format LSP16 (R127, R135). -/
def rowsLSP16 : List (TableRow 16) := [
  ⟨0x001F#16, 0x0005#16, .ldrPost16, [rd16, rn16, rm16, bitsAt 5 2]⟩,
  ⟨0x001F#16, 0x0015#16, .strPost16, [rd16, rn16, rm16, bitsAt 5 2]⟩]

/-- The rows of format LSP32 (R127, R135). -/
def rowsLSP32 : List (TableRow 32) := [
  ⟨0x0000001F#32, 0x0000000D#32, .ldrPost32, [rd32, rn32, rm32, bitsAt 5 2, bitsAt 20 1]⟩,
  ⟨0x0000001F#32, 0x0000001D#32, .strPost32, [rd32, rn32, rm32, bitsAt 5 2, bitsAt 20 1]⟩]

/-- The rows of format LSD16 (R127, R135). -/
def rowsLSD16 : List (TableRow 16) := [
  ⟨0x001F#16, 0x0004#16, .ldrDisp16, [rd16, rn16, rm16, bitsAt 5 2]⟩,
  ⟨0x001F#16, 0x0014#16, .strDisp16, [rd16, rn16, rm16, bitsAt 5 2]⟩]

/-- The rows of format LSD32 (R127, R135). -/
def rowsLSD32 : List (TableRow 32) := [
  ⟨0x0200001F#32, 0x0000000C#32, .ldrDisp32, [rd32, rn32, imm11, bitsAt 5 2, bitsAt 24 1]⟩,
  ⟨0x0200001F#32, 0x0200000C#32, .ldrDispPost, [rd32, rn32, imm11, bitsAt 5 2, bitsAt 24 1]⟩,
  ⟨0x0200001F#32, 0x0000001C#32, .strDisp32, [rd32, rn32, imm11, bitsAt 5 2, bitsAt 24 1]⟩,
  ⟨0x0200001F#32, 0x0200001C#32, .strDispPost, [rd32, rn32, imm11, bitsAt 5 2, bitsAt 24 1]⟩]

/-- The rows of format MOVI16 (R127, R135). -/
def rowsMOVI16 : List (TableRow 16) := [
  ⟨0x001F#16, 0x0003#16, .movImm16, [rd16, bitsAt 5 8]⟩]

/-- The rows of format MOVI32 (R127, R135). -/
def rowsMOVI32 : List (TableRow 32) := [
  ⟨0x100F001F#32, 0x0002000B#32, .movImm32, [rd32, imm16]⟩,
  ⟨0x100F001F#32, 0x1002000B#32, .movt, [rd32, imm16]⟩]

/-- The rows of format IMM16 (R127, R135). -/
def rowsIMM16 : List (TableRow 16) := [
  ⟨0x007F#16, 0x0013#16, .addImm16, [rd16, rn16, rm16]⟩,
  ⟨0x007F#16, 0x0033#16, .subImm16, [rd16, rn16, rm16]⟩]

/-- The rows of format IMM32 (R127, R135). -/
def rowsIMM32 : List (TableRow 32) := [
  ⟨0x0000007F#32, 0x0000001B#32, .addImm32, [rd32, rn32, imm11]⟩,
  ⟨0x0000007F#32, 0x0000003B#32, .subImm32, [rd32, rn32, imm11]⟩]

/-- The rows of format ALU16 (R127, R135). -/
def rowsALU16 : List (TableRow 16) := [
  ⟨0x007F#16, 0x000A#16, .eor16, [rd16, rn16, rm16]⟩,
  ⟨0x007F#16, 0x001A#16, .add16, [rd16, rn16, rm16]⟩,
  ⟨0x007F#16, 0x002A#16, .lsl16, [rd16, rn16, rm16]⟩,
  ⟨0x007F#16, 0x003A#16, .sub16, [rd16, rn16, rm16]⟩,
  ⟨0x007F#16, 0x004A#16, .lsr16, [rd16, rn16, rm16]⟩,
  ⟨0x007F#16, 0x005A#16, .and16, [rd16, rn16, rm16]⟩,
  ⟨0x007F#16, 0x006A#16, .asr16, [rd16, rn16, rm16]⟩,
  ⟨0x007F#16, 0x007A#16, .orr16, [rd16, rn16, rm16]⟩]

/-- The rows of format ALU32 (R127, R135). -/
def rowsALU32 : List (TableRow 32) := [
  ⟨0x000F007F#32, 0x000A000F#32, .eor32, [rd32, rn32, rm32]⟩,
  ⟨0x000F007F#32, 0x000A001F#32, .add32, [rd32, rn32, rm32]⟩,
  ⟨0x000F007F#32, 0x000A002F#32, .lsl32, [rd32, rn32, rm32]⟩,
  ⟨0x000F007F#32, 0x000A003F#32, .sub32, [rd32, rn32, rm32]⟩,
  ⟨0x000F007F#32, 0x000A004F#32, .lsr32, [rd32, rn32, rm32]⟩,
  ⟨0x000F007F#32, 0x000A005F#32, .and32, [rd32, rn32, rm32]⟩,
  ⟨0x000F007F#32, 0x000A006F#32, .asr32, [rd32, rn32, rm32]⟩,
  ⟨0x000F007F#32, 0x000A007F#32, .orr32, [rd32, rn32, rm32]⟩]

/-- The rows of format SHI16 (R127, R135). -/
def rowsSHI16 : List (TableRow 16) := [
  ⟨0x001F#16, 0x0006#16, .lsrImm16, [rd16, rn16, bitsAt 5 5]⟩,
  ⟨0x001F#16, 0x0016#16, .lslImm16, [rd16, rn16, bitsAt 5 5]⟩,
  ⟨0x001F#16, 0x000E#16, .asrImm16, [rd16, rn16, bitsAt 5 5]⟩,
  ⟨0x001F#16, 0x001E#16, .bitr16, [rd16, rn16]⟩]

/-- The rows of format SHI32 (R127, R135). -/
def rowsSHI32 : List (TableRow 32) := [
  ⟨0x000F001F#32, 0x0006000F#32, .lsrImm32, [rd32, rn32, bitsAt 5 5]⟩,
  ⟨0x000F001F#32, 0x0006001F#32, .lslImm32, [rd32, rn32, bitsAt 5 5]⟩,
  ⟨0x000F001F#32, 0x000E000F#32, .asrImm32, [rd32, rn32, bitsAt 5 5]⟩,
  ⟨0x000F001F#32, 0x000E001F#32, .bitr32, [rd32, rn32]⟩]

/-- The rows of format FP16 (R127, R135). -/
def rowsFP16 : List (TableRow 16) := [
  ⟨0x007F#16, 0x0007#16, .fadd16, [rd16, rn16, rm16]⟩,
  ⟨0x007F#16, 0x0017#16, .fsub16, [rd16, rn16, rm16]⟩,
  ⟨0x007F#16, 0x0027#16, .fmul16, [rd16, rn16, rm16]⟩,
  ⟨0x007F#16, 0x0037#16, .fmadd16, [rd16, rn16, rm16]⟩,
  ⟨0x007F#16, 0x0047#16, .fmsub16, [rd16, rn16, rm16]⟩,
  ⟨0x007F#16, 0x0057#16, .float16, [rd16, rn16, rm16]⟩,
  ⟨0x007F#16, 0x0067#16, .fix16, [rd16, rn16, rm16]⟩,
  ⟨0x007F#16, 0x0077#16, .fabs16, [rd16, rn16, rm16]⟩]

/-- The rows of format FP32 (R127, R135). -/
def rowsFP32 : List (TableRow 32) := [
  ⟨0x000F007F#32, 0x0007000F#32, .fadd32, [rd32, rn32, rm32]⟩,
  ⟨0x000F007F#32, 0x0007001F#32, .fsub32, [rd32, rn32, rm32]⟩,
  ⟨0x000F007F#32, 0x0007002F#32, .fmul32, [rd32, rn32, rm32]⟩,
  ⟨0x000F007F#32, 0x0007003F#32, .fmadd32, [rd32, rn32, rm32]⟩,
  ⟨0x000F007F#32, 0x0007004F#32, .fmsub32, [rd32, rn32, rm32]⟩,
  ⟨0x000F007F#32, 0x0007005F#32, .float32, [rd32, rn32, rm32]⟩,
  ⟨0x000F007F#32, 0x0007006F#32, .fix32, [rd32, rn32, rm32]⟩,
  ⟨0x000F007F#32, 0x0007007F#32, .fabs32, [rd32, rn32, rm32]⟩]

/-- The rows of format MOVC16 (R127, R135). -/
def rowsMOVC16 : List (TableRow 16) := [
  ⟨0x030F#16, 0x0002#16, .movCond16, [rd16, rn16, bitsAt 4 4]⟩]

/-- The rows of format MOVC32 (R127, R135). -/
def rowsMOVC32 : List (TableRow 32) := [
  ⟨0x000F030F#32, 0x0002000F#32, .movCond32, [rd32, rn32, bitsAt 4 4]⟩]

/-- The rows of format SYS16 (R127, R135). -/
def rowsSYS16 : List (TableRow 16) := [
  ⟨0x03FF#16, 0x0102#16, .movts16, [rd16, rn16]⟩,
  ⟨0x03FF#16, 0x0112#16, .movfs16, [rd16, rn16]⟩]

/-- The rows of format SYS32 (R127, R135). -/
def rowsSYS32 : List (TableRow 32) := [
  ⟨0x000F03FF#32, 0x0002010F#32, .movts32, [rd32, rn32, bitsAt 20 2]⟩,
  ⟨0x000F03FF#32, 0x0002011F#32, .movfs32, [rd32, rn32, bitsAt 20 2]⟩]

/-- The rows of format JMP16 (R127, R135). -/
def rowsJMP16 : List (TableRow 16) := [
  ⟨0x03FF#16, 0x0142#16, .jr16, [rn16]⟩,
  ⟨0x03FF#16, 0x0152#16, .jalr16, [rn16]⟩]

/-- The rows of format JMP32 (R127, R135). -/
def rowsJMP32 : List (TableRow 32) := [
  ⟨0x000F03FF#32, 0x0002014F#32, .jr32, [rn32]⟩,
  ⟨0x000F03FF#32, 0x0002015F#32, .jalr32, [rn32]⟩]

/-- The rows of format SPC16 (R127, R135). -/
def rowsSPC16 : List (TableRow 16) := [
  ⟨0x03FF#16, 0x0182#16, .wand, []⟩,
  ⟨0x03FF#16, 0x0192#16, .gie, []⟩,
  ⟨0x03FF#16, 0x01A2#16, .nop, []⟩,
  ⟨0x03FF#16, 0x01B2#16, .idle, []⟩,
  ⟨0x03FF#16, 0x01C2#16, .bkpt, []⟩,
  ⟨0x03FF#16, 0x01D2#16, .rti, []⟩,
  ⟨0x03FF#16, 0x01F2#16, .sync, []⟩,
  ⟨0x03FF#16, 0x0392#16, .gid, []⟩,
  ⟨0x03FF#16, 0x03C2#16, .mbkpt, []⟩,
  ⟨0x03FF#16, 0x01E2#16, .swi, [bitsAt 10 6]⟩,
  ⟨0x03FF#16, 0x03E2#16, .trap, [bitsAt 10 6]⟩]

/-- The 16-bit rows of R135. -/
def table16 : List (TableRow 16) :=
  rowsBR16 ++ rowsLSX16 ++ rowsLSP16 ++ rowsLSD16 ++ rowsMOVI16 ++ rowsIMM16 ++ rowsALU16 ++ rowsSHI16 ++ rowsFP16 ++ rowsMOVC16 ++ rowsSYS16 ++ rowsJMP16 ++ rowsSPC16

/-- The 32-bit rows of R135. -/
def table32 : List (TableRow 32) :=
  rowsBR32 ++ rowsLSX32 ++ rowsLSP32 ++ rowsLSD32 ++ rowsMOVI32 ++ rowsIMM32 ++ rowsALU32 ++ rowsSHI32 ++ rowsFP32 ++ rowsMOVC32 ++ rowsSYS32 ++ rowsJMP32

/-- The default decode parameters: the tables of R135, and no extension decoder (R145). -/
def ruleDecode : DecodeConfig := { table16 := table16, table32 := table32, ext16 := [], ext32 := [] }

/-! ## Registering extension decoders (R145, R372): the host's operations, made before the run -/

/-- Register a decoder, after those there are. DESIGN CHOICE (log entry 25): R145 says that the registry is ordered and
not where an added decoder goes; here it is tried last. -/
def DecodeConfig.register16 (d : DecodeConfig) (x : ExtDecoder 16) : DecodeConfig := { d with ext16 := d.ext16 ++ [x] }
def DecodeConfig.register32 (d : DecodeConfig) (x : ExtDecoder 32) : DecodeConfig := { d with ext32 := d.ext32 ++ [x] }

/-- Remove the decoder at a place in the order. DESIGN CHOICE (log entry 25): R145 does not say how a decoder to be
removed is named; here by its place. -/
def DecodeConfig.remove16 (d : DecodeConfig) (i : Nat) : DecodeConfig := { d with ext16 := d.ext16.eraseIdx i }
def DecodeConfig.remove32 (d : DecodeConfig) (i : Nat) : DecodeConfig := { d with ext32 := d.ext32.eraseIdx i }

/-- Remove every extension decoder. -/
def DecodeConfig.clearExt (d : DecodeConfig) : DecodeConfig := { d with ext16 := [], ext32 := [] }

/-! ## The decoder (R121, R123, R143, R145, R146) -/

/-- The instruction of the first row that matches. No two rows of R135 match one word, so the order is immaterial
(R123). -/
def lookupRow {n : Nat} : List (TableRow n) → BitVec n → Option Instr
  | [], _ => none
  | r :: rs, w => if w &&& r.mask = r.bits then some (r.build w) else lookupRow rs w

/-- What an extension decoder makes of a word: its first row that matches. -/
def extLookup {n : Nat} : ExtDecoder n → BitVec n → Option (ExtRow n)
  | [], _ => none
  | r :: rs, w => if w &&& r.mask = r.bits then some r else extLookup rs w

/-- The first decoder of a list that matches wins (R145). -/
def firstMatch {n : Nat} : List (ExtDecoder n) → BitVec n → Option (ExtRow n)
  | [], _ => none
  | d :: ds, w =>
    match extLookup d w with
    | some r => some r
    | none => firstMatch ds w

/-- An extension instruction (R145): its number, its word, its length in bytes, and whether its check passes. -/
structure ExtInstr where
  op : Nat
  word : Word
  width : Nat
  valid : Bool
deriving DecidableEq, Repr

/-- What a word decodes to: an instruction of the tables, or one of an extension. -/
inductive Found where
  | table (i : Instr)
  | ext (e : ExtInstr)
deriving DecidableEq, Repr

/-- The extension instruction a word is under a row of an extension decoder. -/
def ExtRow.instr {n : Nat} (r : ExtRow n) (w : BitVec n) (width : Nat) : ExtInstr :=
  { op := r.op, word := w.setWidth 32, width := width, valid := r.valid }

/-- `Decode16` (R121): the fixed table, then the extension decoders; `none` is "no match" (R143). -/
def decode16 (d : DecodeConfig) (h : BitVec 16) : Option Found :=
  match lookupRow d.table16 h with
  | some i => some (.table i)
  | none => (firstMatch d.ext16 h).map fun r => .ext (r.instr h 2)

/-- `Decode32` (R121). -/
def decode32 (d : DecodeConfig) (w : BitVec 32) : Option Found :=
  match lookupRow d.table32 w with
  | some i => some (.table i)
  | none => (firstMatch d.ext32 w).map fun r => .ext (r.instr w 4)

/-- A 32-bit instruction word from its halfwords, the lower-addressed one in bits 15:0 (R86, R121). -/
def joinHalves (h0 h1 : BitVec 16) : BitVec 32 := h1 ++ h0

/-- A halfword from its bytes, the lower-addressed one in bits 7:0 (R86). -/
def joinBytes (b0 b1 : BitVec 8) : BitVec 16 := b1 ++ b0

/-- Why bytes hold no instruction. -/
inductive Reject where
  /-- No row of either table matches (R143): the InvalidInstruction condition. -/
  | invalidInstruction
  /-- Fewer bytes than the decoder must read. -/
  | tooShort
deriving DecidableEq, Repr

/-- What the decoder reads from bytes: an instruction and the bytes after it, or a rejection by name. -/
inductive Decoded where
  | instr (i : Found) (rest : List Byte)
  | reject (why : Reject)
deriving DecidableEq, Repr

/-- The decoder over the bytes at `pc`, lowest address first: 16 bits, then, on failure, 32 (R121). -/
def decodeBytes (d : DecodeConfig) : List Byte → Decoded
  | b0 :: b1 :: rest =>
    match decode16 d (joinBytes b0 b1) with
    | some i => .instr i rest
    | none =>
      match rest with
      | b2 :: b3 :: rest' =>
        match decode32 d (joinHalves (joinBytes b0 b1) (joinBytes b2 b3)) with
        | some i => .instr i rest'
        | none => .reject .invalidInstruction
      | _ => .reject .tooShort
  | _ => .reject .tooShort

/-- The four bytes of a word, lowest address first (R86). -/
def wordBytes (w : BitVec 32) : List Byte :=
  [w.extractLsb' 0 8, w.extractLsb' 8 8, w.extractLsb' 16 8, w.extractLsb' 24 8]

/-- The bits `w` of a table row of `nbits` bits as the 32 bits at `pc`: every bit above `nbits` is 0. -/
def tableWord (nbits w : Nat) : BitVec 32 := BitVec.ofNat 32 (w % 2 ^ nbits)

/-- What the decoder with the default tables reads from an instruction whose bits are `w`, numbered as the opcode
table numbers them. -/
def decodeTableWord (nbits w : Nat) : Option Instr :=
  match decodeBytes ruleDecode (wordBytes (tableWord nbits w)) with
  | .instr (.table i) _ => some i
  | _ => none

/-! ## The encoder (R124, R127, R135); don't-care bits are written as zero (R141) -/

/-- The number of bytes of an instruction's encoding, `width` of R120. -/
def Instr.width : Instr → Nat
  | .bcond16 _ _ => 2
  | .bcond32 _ _ => 4
  | .ldrIndex16 _ _ _ _ => 2
  | .ldrIndex32 _ _ _ _ _ => 4
  | .ldrPost16 _ _ _ _ => 2
  | .ldrPost32 _ _ _ _ _ => 4
  | .ldrDisp16 _ _ _ _ => 2
  | .ldrDisp32 _ _ _ _ _ => 4
  | .ldrDispPost _ _ _ _ _ => 4
  | .strIndex16 _ _ _ _ => 2
  | .strIndex32 _ _ _ _ _ => 4
  | .strPost16 _ _ _ _ => 2
  | .strPost32 _ _ _ _ _ => 4
  | .strDisp16 _ _ _ _ => 2
  | .strDisp32 _ _ _ _ _ => 4
  | .strDispPost _ _ _ _ _ => 4
  | .testset _ _ _ _ => 4
  | .movImm16 _ _ => 2
  | .movImm32 _ _ => 4
  | .movt _ _ => 4
  | .addImm16 _ _ _ => 2
  | .addImm32 _ _ _ => 4
  | .subImm16 _ _ _ => 2
  | .subImm32 _ _ _ => 4
  | .eor16 _ _ _ => 2
  | .eor32 _ _ _ => 4
  | .add16 _ _ _ => 2
  | .add32 _ _ _ => 4
  | .lsl16 _ _ _ => 2
  | .lsl32 _ _ _ => 4
  | .sub16 _ _ _ => 2
  | .sub32 _ _ _ => 4
  | .lsr16 _ _ _ => 2
  | .lsr32 _ _ _ => 4
  | .and16 _ _ _ => 2
  | .and32 _ _ _ => 4
  | .asr16 _ _ _ => 2
  | .asr32 _ _ _ => 4
  | .orr16 _ _ _ => 2
  | .orr32 _ _ _ => 4
  | .lsrImm16 _ _ _ => 2
  | .lsrImm32 _ _ _ => 4
  | .lslImm16 _ _ _ => 2
  | .lslImm32 _ _ _ => 4
  | .asrImm16 _ _ _ => 2
  | .asrImm32 _ _ _ => 4
  | .bitr16 _ _ => 2
  | .bitr32 _ _ => 4
  | .fadd16 _ _ _ => 2
  | .fadd32 _ _ _ => 4
  | .fsub16 _ _ _ => 2
  | .fsub32 _ _ _ => 4
  | .fmul16 _ _ _ => 2
  | .fmul32 _ _ _ => 4
  | .fmadd16 _ _ _ => 2
  | .fmadd32 _ _ _ => 4
  | .fmsub16 _ _ _ => 2
  | .fmsub32 _ _ _ => 4
  | .float16 _ _ _ => 2
  | .float32 _ _ _ => 4
  | .fix16 _ _ _ => 2
  | .fix32 _ _ _ => 4
  | .fabs16 _ _ _ => 2
  | .fabs32 _ _ _ => 4
  | .movCond16 _ _ _ => 2
  | .movCond32 _ _ _ => 4
  | .movts16 _ _ => 2
  | .movts32 _ _ _ => 4
  | .movfs16 _ _ => 2
  | .movfs32 _ _ _ => 4
  | .jr16 _ => 2
  | .jr32 _ => 4
  | .jalr16 _ => 2
  | .jalr32 _ => 4
  | .wand => 2
  | .gie => 2
  | .nop => 2
  | .idle => 2
  | .bkpt => 2
  | .rti => 2
  | .sync => 2
  | .gid => 2
  | .mbkpt => 2
  | .swi _ => 2
  | .trap _ => 2

/-- A field `v` placed with its lowest bit at `lo`, in a word of `n` bits. -/
def place {k : Nat} (n : Nat) (v : BitVec k) (lo : Nat) : BitVec n := v.setWidth n <<< lo

/-- A register number placed in its two parts (R124). -/
def placeReg (r : BitVec 6) (hi lo : Nat) : BitVec 32 :=
  place 32 (r.extractLsb' 3 3) hi ||| place 32 (r.extractLsb' 0 3) lo

/-- `imm11` or `simm11` placed at 23:16 and 9:7. -/
def placeImm11 (v : BitVec 11) : BitVec 32 := place 32 (v.extractLsb' 3 8) 16 ||| place 32 (v.extractLsb' 0 3) 7

/-- `imm16` placed at 27:20 and 12:5. -/
def placeImm16 (v : BitVec 16) : BitVec 32 := place 32 (v.extractLsb' 8 8) 20 ||| place 32 (v.extractLsb' 0 8) 5

/-- The number of a condition code (R126). -/
def condBits : Cond → BitVec 4
  | .eq => 0
  | .ne => 1
  | .gtu => 2
  | .gteu => 3
  | .lteu => 4
  | .ltu => 5
  | .gt => 6
  | .gte => 7
  | .lt => 8
  | .lte => 9
  | .beq => 10
  | .bne => 11
  | .blt => 12
  | .blte => 13
  | .always => 14
  | .link => 15

/-- The number of a transfer size (R220). -/
def sizeBits : Size → BitVec 2
  | .byte => 0
  | .half => 1
  | .word => 2
  | .double => 3

/-- An encoding: one halfword, or one 32-bit word. -/
inductive Encoded where
  | half (h : BitVec 16)
  | full (w : BitVec 32)
deriving DecidableEq, Repr

/-- The encoding of an instruction. -/
def encode : Instr → Encoded
  | .bcond16 simm8 cond => .half (0x0000#16 ||| place 16 simm8 8 ||| place 16 (condBits cond) 4)
  | .bcond32 simm24 cond => .full (0x00000008#32 ||| place 32 simm24 8 ||| place 32 (condBits cond) 4)
  | .ldrIndex16 rd rn rm size => .half (0x0001#16 ||| place 16 rd 13 ||| place 16 rn 10 ||| place 16 rm 7 ||| place 16 (sizeBits size) 5)
  | .ldrIndex32 rd rn rm size sub => .full (0x00000009#32 ||| placeReg rd 29 13 ||| placeReg rn 26 10 ||| placeReg rm 23 7 ||| place 32 (sizeBits size) 5 ||| place 32 (BitVec.ofBool sub) 20)
  | .ldrPost16 rd rn rm size => .half (0x0005#16 ||| place 16 rd 13 ||| place 16 rn 10 ||| place 16 rm 7 ||| place 16 (sizeBits size) 5)
  | .ldrPost32 rd rn rm size sub => .full (0x0000000D#32 ||| placeReg rd 29 13 ||| placeReg rn 26 10 ||| placeReg rm 23 7 ||| place 32 (sizeBits size) 5 ||| place 32 (BitVec.ofBool sub) 20)
  | .ldrDisp16 rd rn imm3 size => .half (0x0004#16 ||| place 16 rd 13 ||| place 16 rn 10 ||| place 16 imm3 7 ||| place 16 (sizeBits size) 5)
  | .ldrDisp32 rd rn imm11 size sub => .full (0x0000000C#32 ||| placeReg rd 29 13 ||| placeReg rn 26 10 ||| placeImm11 imm11 ||| place 32 (sizeBits size) 5 ||| place 32 (BitVec.ofBool sub) 24)
  | .ldrDispPost rd rn imm11 size sub => .full (0x0200000C#32 ||| placeReg rd 29 13 ||| placeReg rn 26 10 ||| placeImm11 imm11 ||| place 32 (sizeBits size) 5 ||| place 32 (BitVec.ofBool sub) 24)
  | .strIndex16 rd rn rm size => .half (0x0011#16 ||| place 16 rd 13 ||| place 16 rn 10 ||| place 16 rm 7 ||| place 16 (sizeBits size) 5)
  | .strIndex32 rd rn rm size sub => .full (0x00000019#32 ||| placeReg rd 29 13 ||| placeReg rn 26 10 ||| placeReg rm 23 7 ||| place 32 (sizeBits size) 5 ||| place 32 (BitVec.ofBool sub) 20)
  | .strPost16 rd rn rm size => .half (0x0015#16 ||| place 16 rd 13 ||| place 16 rn 10 ||| place 16 rm 7 ||| place 16 (sizeBits size) 5)
  | .strPost32 rd rn rm size sub => .full (0x0000001D#32 ||| placeReg rd 29 13 ||| placeReg rn 26 10 ||| placeReg rm 23 7 ||| place 32 (sizeBits size) 5 ||| place 32 (BitVec.ofBool sub) 20)
  | .strDisp16 rd rn imm3 size => .half (0x0014#16 ||| place 16 rd 13 ||| place 16 rn 10 ||| place 16 imm3 7 ||| place 16 (sizeBits size) 5)
  | .strDisp32 rd rn imm11 size sub => .full (0x0000001C#32 ||| placeReg rd 29 13 ||| placeReg rn 26 10 ||| placeImm11 imm11 ||| place 32 (sizeBits size) 5 ||| place 32 (BitVec.ofBool sub) 24)
  | .strDispPost rd rn imm11 size sub => .full (0x0200001C#32 ||| placeReg rd 29 13 ||| placeReg rn 26 10 ||| placeImm11 imm11 ||| place 32 (sizeBits size) 5 ||| place 32 (BitVec.ofBool sub) 24)
  | .testset rd rn rm sub => .full (0x00200049#32 ||| placeReg rd 29 13 ||| placeReg rn 26 10 ||| placeReg rm 23 7 ||| place 32 (BitVec.ofBool sub) 20)
  | .movImm16 rd imm8 => .half (0x0003#16 ||| place 16 rd 13 ||| place 16 imm8 5)
  | .movImm32 rd imm16 => .full (0x0002000B#32 ||| placeReg rd 29 13 ||| placeImm16 imm16)
  | .movt rd imm16 => .full (0x1002000B#32 ||| placeReg rd 29 13 ||| placeImm16 imm16)
  | .addImm16 rd rn simm3 => .half (0x0013#16 ||| place 16 rd 13 ||| place 16 rn 10 ||| place 16 simm3 7)
  | .addImm32 rd rn simm11 => .full (0x0000001B#32 ||| placeReg rd 29 13 ||| placeReg rn 26 10 ||| placeImm11 simm11)
  | .subImm16 rd rn simm3 => .half (0x0033#16 ||| place 16 rd 13 ||| place 16 rn 10 ||| place 16 simm3 7)
  | .subImm32 rd rn simm11 => .full (0x0000003B#32 ||| placeReg rd 29 13 ||| placeReg rn 26 10 ||| placeImm11 simm11)
  | .eor16 rd rn rm => .half (0x000A#16 ||| place 16 rd 13 ||| place 16 rn 10 ||| place 16 rm 7)
  | .eor32 rd rn rm => .full (0x000A000F#32 ||| placeReg rd 29 13 ||| placeReg rn 26 10 ||| placeReg rm 23 7)
  | .add16 rd rn rm => .half (0x001A#16 ||| place 16 rd 13 ||| place 16 rn 10 ||| place 16 rm 7)
  | .add32 rd rn rm => .full (0x000A001F#32 ||| placeReg rd 29 13 ||| placeReg rn 26 10 ||| placeReg rm 23 7)
  | .lsl16 rd rn rm => .half (0x002A#16 ||| place 16 rd 13 ||| place 16 rn 10 ||| place 16 rm 7)
  | .lsl32 rd rn rm => .full (0x000A002F#32 ||| placeReg rd 29 13 ||| placeReg rn 26 10 ||| placeReg rm 23 7)
  | .sub16 rd rn rm => .half (0x003A#16 ||| place 16 rd 13 ||| place 16 rn 10 ||| place 16 rm 7)
  | .sub32 rd rn rm => .full (0x000A003F#32 ||| placeReg rd 29 13 ||| placeReg rn 26 10 ||| placeReg rm 23 7)
  | .lsr16 rd rn rm => .half (0x004A#16 ||| place 16 rd 13 ||| place 16 rn 10 ||| place 16 rm 7)
  | .lsr32 rd rn rm => .full (0x000A004F#32 ||| placeReg rd 29 13 ||| placeReg rn 26 10 ||| placeReg rm 23 7)
  | .and16 rd rn rm => .half (0x005A#16 ||| place 16 rd 13 ||| place 16 rn 10 ||| place 16 rm 7)
  | .and32 rd rn rm => .full (0x000A005F#32 ||| placeReg rd 29 13 ||| placeReg rn 26 10 ||| placeReg rm 23 7)
  | .asr16 rd rn rm => .half (0x006A#16 ||| place 16 rd 13 ||| place 16 rn 10 ||| place 16 rm 7)
  | .asr32 rd rn rm => .full (0x000A006F#32 ||| placeReg rd 29 13 ||| placeReg rn 26 10 ||| placeReg rm 23 7)
  | .orr16 rd rn rm => .half (0x007A#16 ||| place 16 rd 13 ||| place 16 rn 10 ||| place 16 rm 7)
  | .orr32 rd rn rm => .full (0x000A007F#32 ||| placeReg rd 29 13 ||| placeReg rn 26 10 ||| placeReg rm 23 7)
  | .lsrImm16 rd rn imm5 => .half (0x0006#16 ||| place 16 rd 13 ||| place 16 rn 10 ||| place 16 imm5 5)
  | .lsrImm32 rd rn imm5 => .full (0x0006000F#32 ||| placeReg rd 29 13 ||| placeReg rn 26 10 ||| place 32 imm5 5)
  | .lslImm16 rd rn imm5 => .half (0x0016#16 ||| place 16 rd 13 ||| place 16 rn 10 ||| place 16 imm5 5)
  | .lslImm32 rd rn imm5 => .full (0x0006001F#32 ||| placeReg rd 29 13 ||| placeReg rn 26 10 ||| place 32 imm5 5)
  | .asrImm16 rd rn imm5 => .half (0x000E#16 ||| place 16 rd 13 ||| place 16 rn 10 ||| place 16 imm5 5)
  | .asrImm32 rd rn imm5 => .full (0x000E000F#32 ||| placeReg rd 29 13 ||| placeReg rn 26 10 ||| place 32 imm5 5)
  | .bitr16 rd rn => .half (0x001E#16 ||| place 16 rd 13 ||| place 16 rn 10)
  | .bitr32 rd rn => .full (0x000E001F#32 ||| placeReg rd 29 13 ||| placeReg rn 26 10)
  | .fadd16 rd rn rm => .half (0x0007#16 ||| place 16 rd 13 ||| place 16 rn 10 ||| place 16 rm 7)
  | .fadd32 rd rn rm => .full (0x0007000F#32 ||| placeReg rd 29 13 ||| placeReg rn 26 10 ||| placeReg rm 23 7)
  | .fsub16 rd rn rm => .half (0x0017#16 ||| place 16 rd 13 ||| place 16 rn 10 ||| place 16 rm 7)
  | .fsub32 rd rn rm => .full (0x0007001F#32 ||| placeReg rd 29 13 ||| placeReg rn 26 10 ||| placeReg rm 23 7)
  | .fmul16 rd rn rm => .half (0x0027#16 ||| place 16 rd 13 ||| place 16 rn 10 ||| place 16 rm 7)
  | .fmul32 rd rn rm => .full (0x0007002F#32 ||| placeReg rd 29 13 ||| placeReg rn 26 10 ||| placeReg rm 23 7)
  | .fmadd16 rd rn rm => .half (0x0037#16 ||| place 16 rd 13 ||| place 16 rn 10 ||| place 16 rm 7)
  | .fmadd32 rd rn rm => .full (0x0007003F#32 ||| placeReg rd 29 13 ||| placeReg rn 26 10 ||| placeReg rm 23 7)
  | .fmsub16 rd rn rm => .half (0x0047#16 ||| place 16 rd 13 ||| place 16 rn 10 ||| place 16 rm 7)
  | .fmsub32 rd rn rm => .full (0x0007004F#32 ||| placeReg rd 29 13 ||| placeReg rn 26 10 ||| placeReg rm 23 7)
  | .float16 rd rn rm => .half (0x0057#16 ||| place 16 rd 13 ||| place 16 rn 10 ||| place 16 rm 7)
  | .float32 rd rn rm => .full (0x0007005F#32 ||| placeReg rd 29 13 ||| placeReg rn 26 10 ||| placeReg rm 23 7)
  | .fix16 rd rn rm => .half (0x0067#16 ||| place 16 rd 13 ||| place 16 rn 10 ||| place 16 rm 7)
  | .fix32 rd rn rm => .full (0x0007006F#32 ||| placeReg rd 29 13 ||| placeReg rn 26 10 ||| placeReg rm 23 7)
  | .fabs16 rd rn rm => .half (0x0077#16 ||| place 16 rd 13 ||| place 16 rn 10 ||| place 16 rm 7)
  | .fabs32 rd rn rm => .full (0x0007007F#32 ||| placeReg rd 29 13 ||| placeReg rn 26 10 ||| placeReg rm 23 7)
  | .movCond16 rd rn cond => .half (0x0002#16 ||| place 16 rd 13 ||| place 16 rn 10 ||| place 16 (condBits cond) 4)
  | .movCond32 rd rn cond => .full (0x0002000F#32 ||| placeReg rd 29 13 ||| placeReg rn 26 10 ||| place 32 (condBits cond) 4)
  | .movts16 rd sn => .half (0x0102#16 ||| place 16 rd 13 ||| place 16 sn 10)
  | .movts32 rd sn group => .full (0x0002010F#32 ||| placeReg rd 29 13 ||| placeReg sn 26 10 ||| place 32 group 20)
  | .movfs16 rd sn => .half (0x0112#16 ||| place 16 rd 13 ||| place 16 sn 10)
  | .movfs32 rd sn group => .full (0x0002011F#32 ||| placeReg rd 29 13 ||| placeReg sn 26 10 ||| place 32 group 20)
  | .jr16 rn => .half (0x0142#16 ||| place 16 rn 10)
  | .jr32 rn => .full (0x0002014F#32 ||| placeReg rn 26 10)
  | .jalr16 rn => .half (0x0152#16 ||| place 16 rn 10)
  | .jalr32 rn => .full (0x0002015F#32 ||| placeReg rn 26 10)
  | .wand => .half (0x0182#16)
  | .gie => .half (0x0192#16)
  | .nop => .half (0x01A2#16)
  | .idle => .half (0x01B2#16)
  | .bkpt => .half (0x01C2#16)
  | .rti => .half (0x01D2#16)
  | .sync => .half (0x01F2#16)
  | .gid => .half (0x0392#16)
  | .mbkpt => .half (0x03C2#16)
  | .swi num => .half (0x01E2#16 ||| place 16 num 10)
  | .trap trapnum => .half (0x03E2#16 ||| place 16 trapnum 10)

/-- The bytes of an encoding, lowest address first (R86). -/
def Encoded.bytes : Encoded → List Byte
  | .half h => [h.extractLsb' 0 8, h.extractLsb' 8 8]
  | .full w => wordBytes w

/-- The bytes of an instruction's encoding. -/
def Instr.bytes (i : Instr) : List Byte := (encode i).bytes

end Sys2Proof
end

