-- ==== Sys2Proof/Machine/Params.lean ====
section
/-! DEFINITION. The values of the parameters of rule R5: the size of local memory, the fixed interrupt levels, the
STATUS and CONFIG bit numbers, and the configuration a run starts from. -/

namespace Sys2Proof.Machine

/-! ## The address map (R5) -/

/-- `LOCAL_SIZE`, bytes of local memory a core has: 1 MiB, fixed by the source and by the 20 offset bits of an address
(R62, R63). -/
def localSize : Nat := 0x100000

/-! ## Interrupt levels the source fixes (R340) -/

def irqSync : Fin 9 := 0
def irqSwExc : Fin 9 := 1
def irqTimer0 : Fin 9 := 2
def irqUser : Fin 9 := 8

/-! ## STATUS bits (R33) -/

def bitActive : Nat := 0
def bitGid : Nat := 1
def bitKernel : Nat := 2
def bitWand : Nat := 3
def bitAZ : Nat := 4
def bitAN : Nat := 5
def bitAC : Nat := 6
def bitAV : Nat := 7
def bitBZ : Nat := 8
def bitBN : Nat := 9
def bitBV : Nat := 10
def bitAVS : Nat := 12
def bitBIS : Nat := 13
def bitBVS : Nat := 14
def bitBUS : Nat := 15

/-- The lowest bit of the EXCAUSE field (R33, R345). -/
def excauseLo : Nat := 16

/-- The width of the EXCAUSE field: 3 bits on `EpiphanyIII`, 4 on `EpiphanyIV` (R345). -/
def excauseBits : Arch → Nat
  | .epiphanyIII => 3
  | .epiphanyIV => 4

/-! ## CONFIG bits (R36) and the debug-halt flag (R41) -/

def bitRmode : Nat := 0
def bitIen : Nat := 1
def bitOen : Nat := 2
def bitUen : Nat := 3
def arithModeLo : Nat := 17
def bitHalt : Nat := 0

/-! ## Configurations -/

/-- The candidate cause codes of rule R345, by version. -/
def candidateCauses : Arch → CauseCodes
  | .epiphanyIII =>
    { unimplemented := 0b100, softwareInterrupt := 0b001, unalignedAccess := 0b010, illegalAccess := 0b101,
      floatingPoint := 0b011 }
  | .epiphanyIV =>
    { unimplemented := 0b1111, softwareInterrupt := 0b1110, unalignedAccess := 0b1101, illegalAccess := 0b1100,
      floatingPoint := 0b0111 }

/-- The integer ALU as rule R160 states it. -/
def ruleAlu : AluConfig := { logicKeepsCarry := false, shiftFullCount := false, subCarryIsBorrow := false }

/-- The options of the default instance of `FpNumerics` (R270 to R284). -/
def ruleOptions : FpConfig :=
  { qnanLow := 0, fused := true, infOperandOverflows := true, truncOverflowIsMax := true, fabsQuietsNan := false,
    convClearsBv := true, underflowAfterRounding := true, otherArith := [], otherUnary := [] }

/-- The default instance of `FpNumerics`, which ignores `ARCH` (R287). -/
def ruleFp : FpNumerics := { iii := ruleOptions, iv := ruleOptions }

/-- The link register and the link value as R252 and R254 state them: R14, the address after the instruction. -/
def ruleLink : LinkConfig := { reg := 14, after16 := 2, after32 := 4 }

/-- The condition predicates of R250. -/
def ruleConds : CondTable :=
  { eq := .az, ne := .not .az, gtu := .and (.not .az) .ac, gteu := .ac, lteu := .or .az (.not .ac), ltu := .not .ac,
    gt := .and (.not .az) (.same .av .an), gte := .same .av .an, lt := .not (.same .av .an),
    lte := .or .az (.not (.same .av .an)), beq := .bz, bne := .not .bz, blt := .and .bn (.not .bz),
    blte := .or .bn .bz, always := .tt, link := .tt }

/-- The configuration a run starts from. DESIGN CHOICE (log entry 2): the machine of the spec's own test vectors
(95_test_vectors.md, conventions), with the candidate values of R5, R74, R340, R345 for what is open. -/
def defaultConfig : Config :=
  { arch := .epiphanyIII, rows := 1, cols := 2, extBase := 0x8E000000, extSize := 0x02000000,
    window := { base := 0xF0000, size := 0x800 },
    reservedA := { lo := 0xF0100, hi := 0xF0400 }, reservedB := { lo := 0xF0800, hi := 0x100000 },
    vectorBase := 0, irqDma0 := 5, irqDma1 := 6, irqWand := 7, causes := candidateCauses .epiphanyIII,
    kmEn := none, decode := ruleDecode, conds := ruleConds, link := ruleLink, kernel := .none, alu := ruleAlu,
    fp := ruleFp }

end Sys2Proof.Machine
end

