-- ==== Sys2Proof/Machine/State.lean ====
section
/-! DEFINITION. The state of the machine as plain data (spec rule R20), the reasons a step stops, and the state after
reset (R390). -/

namespace Sys2Proof.Machine

/-- The control registers rule R30 names; `Ctl.index` of Machine/Ops.lean is each one's place in the window. -/
inductive Ctl where
  | config
  | status
  | pc
  | debugStatus
  | lc
  | ls
  | le
  | iret
  | imask
  | ilat
  | ilatSt
  | ilatCl
  | ipend
  | ctimer0
  | ctimer1
  /-- The source's STATUS_STORE (R35). -/
  | fstatus
  | debugCmd
  /-- The eight registers of DMA channel 0, then of channel 1 (R30, group 1, index 0..15): CONFIG, STRIDE, COUNT,
  SRCADDR, DSTADDR, AUTODMA0, AUTODMA1, STATUS. -/
  | dma (n : Fin 16)
  | memStatus
  | memProtect
  | meshConfig
  | coreId
  | multicast
  | resetCore
  | cmeshRoute
  | xmeshRoute
  | rmeshRoute
deriving DecidableEq, Repr

/-- A notification to the host (R363): the four fault channels and "valid instruction executed". -/
inductive Note where
  | invalidProgramCounter
  | invalidInstruction
  | invalidEncoding
  /-- The address as issued, and whether the access was a write (R92). -/
  | invalidMemoryAccess (addr : Word) (write : Bool)
  | validInstruction
deriving DecidableEq, Repr

/-- One core (R20). Its 1 MiB of local memory is held in two parts that together are the byte array of the spec: the
register window as words by their word index (`window`; R0..R63 are words 0..63), and every byte outside the window
(`mem`). Both list only what differs from zero, by strictly rising key; an unlisted word or byte reads as 0 (R390). -/
structure ECore where
  window : List (Nat × Word)
  mem : List Host.Cell
  /-- The idle flag (R55). -/
  idle : Bool
  /-- The test-outcome values (R56). -/
  passed : Bool
  failed : Bool
  exitCode : Word
  /-- The notifications emitted so far, the latest first (R363). -/
  notes : List Note
deriving DecidableEq, Repr

/-- What an agent does next (R21, R371, R372): a tick of a core, an operation of the host, an act of a core's DMA
engine. The interleaving of the agents is this list. -/
inductive Event where
  /-- Core `c` takes a tick. -/
  | turn (c : CoreId)
  /-- `HostWrite(core, addr, n, v)` (R372). -/
  | hostWrite (c : CoreId) (addr : Word) (size : Access) (v : Word)
  /-- `HostTrigger(core, i, cause)` (R372). -/
  | hostTrigger (c : CoreId) (irq : Fin 9) (cause : Option Cause)
  /-- The host sets the halting flag (R373). -/
  | hostHalt
  /-- A write the DMA engine of core `c` makes, issued as `c` (R371). -/
  | dmaWrite (c : CoreId) (addr : Word) (size : Access) (v : Word)
  /-- The DMA engine of core `c` triggers its interrupt, of channel 1 or else 0 (R371). -/
  | dmaTrigger (c : CoreId) (channel1 : Bool)
deriving DecidableEq, Repr

/-- The machine (R20). `self`, `agenda` and `fresh` are the MODEL's own fields, not the spec's: which core the next
tick belongs to, what the agents do next, and how many free values have been used. -/
structure State where
  /-- The parameters of the run (R5), which no step changes (R61). -/
  cfg : Config
  /-- The cores of the grid by key, rising. -/
  cores : List (Nat × ECore)
  /-- External memory by offset (R59), held as `ECore.mem` is. -/
  ext : List Host.Cell
  /-- The machine-wide halting flag (R58). -/
  halting : Bool
  /-- The executing core `self` of R9: it ticks when the agenda is empty. -/
  self : CoreId
  agenda : List Event
  fresh : Nat
deriving DecidableEq, Repr

/-- Why the machine stops. Every fault of the spec's own taxonomy (R330) is a NEXT state: the core halts and notifies
the host (R336), or an interrupt is latched (R333). -/
inductive Fault where
  /-- The halting flag is set, so no agent acts any more and the state is final (R355, R373). Raised by `step` alone.
  Safe: the run has ended. -/
  | runEnded
deriving DecidableEq, Repr

/-- Why a step has no meaning. Each but `notModelled` stands where the spec says that a model refuses. -/
inductive Refusal where
  /-- An instruction whose arm gives it no meaning yet; raised by `exec`'s arms alone. Safe. -/
  | notModelled (mnemonic : String)
  /-- A postmodify load whose destination is its base register (R227, U6). Raised by the postmodify loads. Safe. -/
  | postmodifyLoadIntoBase
  /-- A write narrower than a word onto one of the six side-effect registers (R47, U7). Raised by memory writes. Safe. -/
  | narrowSideEffectWrite
  /-- A test-and-set on a word inside a register window (R104, U8). Raised by TESTSET. Safe. -/
  | testSetInWindow
  /-- A float instruction with CONFIG.ARITHMODE other than 0 (R271, U22). Raised by the float instructions. Safe. -/
  | arithModeNotFloat
  /-- TRAP with a code other than 3, 4, 5, 7 (R311, U26). Raised by TRAP. Safe. -/
  | trapCode (trapnum : BitVec 6)
  /-- A malformed host operation: a core outside the grid or a wrong cause pairing (R6, R344, U11). Raised by events
  of the agenda, by the writes of a system call and by the triggers of an extension instruction. Safe. -/
  | argumentError
deriving DecidableEq, Repr

/-- A core after reset (R390): every word of the window and every byte of memory 0, the flags clear. COREID is 0,
which the spec leaves unspecified: DESIGN CHOICE (log entry 5). -/
def ECore.reset : ECore :=
  { window := [], mem := [], idle := false, passed := false, failed := false, exitCode := 0, notes := [] }

/-- The keys of the cores of a grid, rising (R5, R369). -/
def gridKeys (cfg : Config) : List Nat :=
  (List.range cfg.rows).flatMap fun r => (List.range cfg.cols).map fun c => r * 64 + c

/-- The state after reset of a machine with parameters `cfg` (R390). -/
def State.resetFor (cfg : Config) : State :=
  { cfg := cfg, cores := (gridKeys cfg).map fun k => (k, ECore.reset), ext := [], halting := false,
    self := { row := 0, col := 0 }, agenda := [], fresh := 0 }

/-- The machine right after reset (R390), with the parameters of `defaultConfig`. -/
def State.reset : State := State.resetFor defaultConfig

end Sys2Proof.Machine
end

