-- ==== Sys2Proof/Machine/Sparse.lean ====
section
/-! DEFINITION. Sparse maps: lists of (key, value) pairs, and the bit operations on words. -/

namespace Sys2Proof.Machine

/-! ## Sparse maps -/

/-- The value at a key; `d` where the key is not listed. -/
def mapGet {α : Type} (d : α) : List (Nat × α) → Nat → α
  | [], _ => d
  | (a, x) :: m, k => if k = a then x else mapGet d m k

/-- Put a value at a key, in the place its key has in a rising list. -/
def mapPut {α : Type} : List (Nat × α) → Nat → α → List (Nat × α)
  | [], k, v => [(k, v)]
  | (a, x) :: m, k, v => if k < a then (k, v) :: (a, x) :: m else if k = a then (k, v) :: m else (a, x) :: mapPut m k v

/-- Take a key out. -/
def mapErase {α : Type} : List (Nat × α) → Nat → List (Nat × α)
  | [], _ => []
  | (a, x) :: m, k => if k = a then mapErase m k else (a, x) :: mapErase m k

/-- Write a value in canonical form: a value equal to the default is not listed. -/
def mapSet {n : Nat} (m : List (Nat × BitVec n)) (k : Nat) (v : BitVec n) : List (Nat × BitVec n) :=
  if v = 0 then mapErase m k else mapPut m k v

/-- Are all keys above `k`? -/
def keysAbove {α : Type} (k : Nat) : List (Nat × α) → Bool
  | [] => true
  | (a, _) :: m => decide (k < a) && keysAbove k m

/-- Do the keys rise strictly? -/
def keysRising {α : Type} : List (Nat × α) → Bool
  | [] => true
  | (a, _) :: m => keysAbove a m && keysRising m

/-- The canonical form: keys strictly rising, and no listed value equal to the default 0. -/
def mapWf {n : Nat} (m : List (Nat × BitVec n)) : Bool := keysRising m && m.all fun p => p.2 != 0

/-- The canonical form of a memory. -/
def Memory.wf (m : List Host.Cell) : Bool := mapWf m

/-! ## Bits of a word (R8) -/

/-- One bit of a word replaced. -/
def setBit (w : Word) (i : Nat) (b : Bool) : Word :=
  if b then w ||| (1#32 <<< i) else w &&& ~~~(1#32 <<< i)

/-- The mask of `len` bits from `lo`. -/
def fieldMask (lo len : Nat) : Word := (BitVec.allOnes 32 >>> (32 - len)) <<< lo

/-- The bits `lo .. lo + len - 1` of a word replaced by the low `len` bits of `v`. -/
def setField (w : Word) (lo len : Nat) (v : Word) : Word :=
  (w &&& ~~~(fieldMask lo len)) ||| ((v <<< lo) &&& fieldMask lo len)

end Sys2Proof.Machine
end

