-- ==== Sys2Proof/Machine/Memory.lean ====
section
/-! DEFINITION. The cores as holders of memory: the register window, local and external memory, address translation
(R70 to R77), the access pipeline (R80 to R92) and the test-and-set operation (R102). -/

namespace Sys2Proof.Machine

/-! ## The register window of a core (R22, R30) -/

/-- The word index in the window of register `n` of group `g`: offset 0x400 + 0x100*g + 4*n of the window (R30). -/
def groupIndex (g n : Nat) : Nat := 256 + 64 * g + n

/-- The word index of a control register (R30). -/
def Ctl.index : Ctl → Nat
  | .config => groupIndex 0 0
  | .status => groupIndex 0 1
  | .pc => groupIndex 0 2
  | .debugStatus => groupIndex 0 3
  | .lc => groupIndex 0 5
  | .ls => groupIndex 0 6
  | .le => groupIndex 0 7
  | .iret => groupIndex 0 8
  | .imask => groupIndex 0 9
  | .ilat => groupIndex 0 10
  | .ilatSt => groupIndex 0 11
  | .ilatCl => groupIndex 0 12
  | .ipend => groupIndex 0 13
  | .ctimer0 => groupIndex 0 14
  | .ctimer1 => groupIndex 0 15
  | .fstatus => groupIndex 0 16
  | .debugCmd => groupIndex 0 18
  | .dma n => groupIndex 1 n
  | .memStatus => groupIndex 2 1
  | .memProtect => groupIndex 2 2
  | .meshConfig => groupIndex 3 0
  | .coreId => groupIndex 3 1
  | .multicast => groupIndex 3 2
  | .resetCore => groupIndex 3 3
  | .cmeshRoute => groupIndex 3 4
  | .xmeshRoute => groupIndex 3 5
  | .rmeshRoute => groupIndex 3 6

/-- The word of the window at a word index. -/
def ECore.word (c : ECore) (k : Nat) : Word := mapGet 0 c.window k

/-- Write a word of the window, without side effect (R31 (b)). -/
def ECore.setWord (c : ECore) (k : Nat) (v : Word) : ECore := { c with window := mapSet c.window k v }

/-- A control register of a core. -/
def ECore.ctl (c : ECore) (r : Ctl) : Word := c.word r.index

/-- Write a control register of a core, without side effect (R31 (b)). -/
def ECore.setCtl (c : ECore) (r : Ctl) (v : Word) : ECore := c.setWord r.index v

/-- The byte of local memory at an offset outside the window. -/
def ECore.plainByte (c : ECore) (off : Nat) : Byte := mapGet 0 c.mem off

/-- Is the offset inside the register window? -/
def inWindow (w : RegWindow) (off : Nat) : Bool := decide (w.base ≤ off) && decide (off < w.base + w.size)

/-- The word index of an offset inside the window, and the byte position in that word (little-endian, R22, R86). -/
def windowIndex (w : RegWindow) (off : Nat) : Nat := (off - w.base) / 4
def windowByte (w : RegWindow) (off : Nat) : Nat := (off - w.base) % 4

/-! ## Bytes, little-endian (R86) -/

/-- The number of bytes of an access. -/
def accessBytes : Access → Nat
  | .b1 => 1
  | .b2 => 2
  | .b4 => 4

/-- `1 << i` bytes read from a byte array, the lowest address least significant, zero-extended (R84). -/
def readBytes (m : List Host.Cell) (off : Nat) : Access → Word
  | .b1 => (mapGet 0 m off).setWidth 32
  | .b2 => (mapGet 0 m (off + 1) ++ mapGet 0 m off).setWidth 32
  | .b4 => mapGet 0 m (off + 3) ++ mapGet 0 m (off + 2) ++ mapGet 0 m (off + 1) ++ mapGet 0 m off

/-- The low bytes of a word written to a byte array, the least significant at the lowest address (R85). -/
def writeBytes (m : List Host.Cell) (off : Nat) (v : Word) : Access → List Host.Cell
  | .b1 => mapSet m off (v.extractLsb' 0 8)
  | .b2 => mapSet (mapSet m off (v.extractLsb' 0 8)) (off + 1) (v.extractLsb' 8 8)
  | .b4 =>
    mapSet (mapSet (mapSet (mapSet m off (v.extractLsb' 0 8)) (off + 1) (v.extractLsb' 8 8)) (off + 2)
      (v.extractLsb' 16 8)) (off + 3) (v.extractLsb' 24 8)

/-! ## Local memory, the register window included (R20, R90) -/

/-- An aligned read of local memory (R84). An aligned access that begins in the window stays in one of its words. -/
def ECore.load (c : ECore) (w : RegWindow) (off : Nat) (size : Access) : Word :=
  if inWindow w off then
    (c.word (windowIndex w off) >>> (8 * windowByte w off)) &&& fieldMask 0 (8 * (accessBytes size))
  else readBytes c.mem off size

/-- One byte of local memory, the window's bytes included. -/
def ECore.byte (c : ECore) (w : RegWindow) (off : Nat) : Byte := (c.load w off .b1).setWidth 8

/-- The six registers whose memory-mapped write has a side effect (R90, R91). -/
def sideEffectWord (k : Nat) : Bool :=
  k == Ctl.index .status || k == Ctl.index .fstatus || k == Ctl.index .ilatSt || k == Ctl.index .ilatCl ||
    k == Ctl.index .debugCmd || k == Ctl.index .resetCore

/-- STATUS after a memory-mapped write of `v` to it: bits 2:0 are kept (R34). -/
def mergeStatus (old v : Word) : Word := (v &&& ~~~7#32) ||| (old &&& 7#32)

/-- A memory-mapped write of a word of the window, with its side effect (R31 (a), R34, R35, R38, R41, R42): first the
effect, then the raw word is committed. -/
def ECore.writeWord (c : ECore) (k : Nat) (v : Word) : ECore :=
  if k = Ctl.index .status then c.setCtl .status (mergeStatus (c.ctl .status) v)
  else if k = Ctl.index .fstatus then (c.setCtl .status v).setCtl .fstatus v
  else if k = Ctl.index .ilatSt then (c.setCtl .ilat (c.ctl .ilat ||| v)).setCtl .ilatSt v
  else if k = Ctl.index .ilatCl then (c.setCtl .ilat (c.ctl .ilat &&& ~~~v)).setCtl .ilatCl v
  else if k = Ctl.index .debugCmd then
    (if v.extractLsb' 0 2 = 0b01#2 then c.setCtl .debugStatus (setBit (c.ctl .debugStatus) bitHalt true)
      else if v.extractLsb' 0 2 = 0b00#2 then c.setCtl .debugStatus (setBit (c.ctl .debugStatus) bitHalt false)
      else c).setCtl .debugCmd v
  else if k = Ctl.index .resetCore then
    (if v.getLsbD 0 then c else { c with window := [] }).setCtl .resetCore v
  else c.setWord k v

/-- An aligned write of local memory with the side effect of the register there (R85, R90); `none` where the spec
defines no effect: a narrow write onto a side-effect register (R47). -/
def ECore.store (c : ECore) (w : RegWindow) (off : Nat) (size : Access) (v : Word) : Option ECore :=
  if inWindow w off then
    match size with
    | .b4 => some (c.writeWord (windowIndex w off) v)
    | _ =>
      if sideEffectWord (windowIndex w off) then none
      else some (c.setWord (windowIndex w off)
        (setField (c.word (windowIndex w off)) (8 * windowByte w off) (8 * (accessBytes size)) v))
  else some { c with mem := writeBytes c.mem off v size }

/-! ## The cores of the grid -/

/-- Is the core in the grid (R5, R73)? -/
def inGrid (cfg : Config) (c : CoreId) : Bool := decide (c.row.toNat < cfg.rows) && decide (c.col.toNat < cfg.cols)

/-- The cores of the grid, row by row. -/
def gridCores (cfg : Config) : List CoreId :=
  (List.range cfg.rows).flatMap fun r =>
    (List.range cfg.cols).map fun c => { row := BitVec.ofNat 6 r, col := BitVec.ofNat 6 c }

/-- A core of the machine. -/
def State.core (s : State) (c : CoreId) : ECore := mapGet ECore.reset s.cores c.key

/-- Replace a core of the machine. -/
def State.setCore (s : State) (c : CoreId) (x : ECore) : State := { s with cores := mapPut s.cores c.key x }

/-! ## Address translation (R62, R63, R70 to R77) -/

/-- `Addr(row, col) = row<<26 | col<<20` (R63). -/
def coreAddr (c : CoreId) : Word := (c.row.setWidth 32 <<< 26) ||| (c.col.setWidth 32 <<< 20)

/-- `CoreIdOf(a) = (a[31:26], a[25:20])` (R63). -/
def coreIdOf (a : Word) : CoreId := { row := a.extractLsb' 26 6, col := a.extractLsb' 20 6 }

/-- `Offset(a) = a[19:0]` (R63). -/
def offsetOf (a : Word) : Nat := (a.extractLsb' 0 20).toNat

/-- What an address translates to (R70). -/
inductive Target where
  | external (off : Nat)
  | core (c : CoreId) (off : Nat)
  | invalid
deriving DecidableEq, Repr

/-- Is the offset in a reserved sub-range (R74)? -/
def reserved (cfg : Config) (off : Nat) : Bool :=
  (decide (cfg.reservedA.lo ≤ off) && decide (off < cfg.reservedA.hi)) ||
    (decide (cfg.reservedB.lo ≤ off) && decide (off < cfg.reservedB.hi))

/-- The local target of an address, invalid in a reserved sub-range (R74). -/
def localTarget (cfg : Config) (c : CoreId) (off : Nat) : Target :=
  if reserved cfg off then .invalid else .core c off

/-- `Translate(self, addr)` (R70): external memory (R71), the issuing core's alias (R72), a core of the grid (R73),
else invalid (R75). It never raises: it is also the probing variant of R77. -/
def translate (cfg : Config) (self : CoreId) (addr : Word) : Target :=
  if cfg.extBase ≤ addr.toNat ∧ addr.toNat < cfg.extBase + cfg.extSize then .external (addr.toNat - cfg.extBase)
  else if addr.extractLsb' 20 12 = 0#12 then localTarget cfg self (offsetOf addr)
  else if inGrid cfg (coreIdOf addr) then localTarget cfg (coreIdOf addr) (offsetOf addr)
  else .invalid

/-! ## Results of an access or of an instruction's execute -/

/-- How an access, or an instruction, ends: with a value, with one of the raised conditions of R330, or refused. -/
inductive Res (α : Type) where
  | ok (a : α)
  /-- `MemoryFault(addr, rw)` (R332), with the state as the effects already made have left it. -/
  | memoryFault (addr : Word) (write : Bool) (s : State)
  /-- `Misaligned(addr)` (R333): raised before any effect. -/
  | misaligned (addr : Word)
  | refused (r : Refusal)

/-- Go on with the value of a result that has one. -/
def Res.bind {α β : Type} : Res α → (α → Res β) → Res β
  | .ok a, f => f a
  | .memoryFault addr w s, _ => .memoryFault addr w s
  | .misaligned addr, _ => .misaligned addr
  | .refused r, _ => .refused r

/-! ## The access pipeline (R80 to R92) -/

/-- Is the address a multiple of `n` (R81)? -/
def aligned (addr : Word) (n : Nat) : Bool := addr.toNat % n == 0

/-- Does the access stay inside its backing array (R83)? -/
def inBounds (cfg : Config) (t : Target) (size : Access) : Bool :=
  match t with
  | .external off => decide (off + (accessBytes size) ≤ cfg.extSize)
  | .core _ off => decide (off + (accessBytes size) ≤ localSize)
  | .invalid => false

/-- `MemRead(addr, n)` issued by `self` (R84): alignment, translation, bounds, then the bytes. No side effect. -/
def memRead (s : State) (self : CoreId) (addr : Word) (size : Access) : Res Word :=
  if aligned addr (accessBytes size) then
    if inBounds s.cfg (translate s.cfg self addr) size then
      match translate s.cfg self addr with
      | .external off => .ok (readBytes s.ext off size)
      | .core c off => .ok ((s.core c).load s.cfg.window off size)
      | .invalid => .memoryFault addr false s
    else .memoryFault addr false s
  else .misaligned addr

/-- `MemWrite(addr, n, v)` issued by `self` (R85): alignment, translation, bounds, then the side effect and the
bytes. The effect is on the core that owns the memory (R90). -/
def memWrite (s : State) (self : CoreId) (addr : Word) (size : Access) (v : Word) : Res State :=
  if aligned addr (accessBytes size) then
    if inBounds s.cfg (translate s.cfg self addr) size then
      match translate s.cfg self addr with
      | .external off => .ok { s with ext := writeBytes s.ext off v size }
      | .core c off =>
        match (s.core c).store s.cfg.window off size v with
        | some x => .ok (s.setCore c x)
        | none => .refused .narrowSideEffectWrite
      | .invalid => .memoryFault addr true s
    else .memoryFault addr true s
  else .misaligned addr

/-- The byte an address reads as, issued by a core; an address that reads nothing gives 0. -/
def byteAt (s : State) (c : CoreId) (addr : Word) : Byte :=
  match memRead s c addr .b1 with
  | .ok v => v.setWidth 8
  | _ => 0

/-- `TestSet(self, addr, v)` (R102): the old word and the state after the conditional write. The word must be in the
local memory of a core other than `self`; one inside its register window is refused (R104). -/
def testSet (s : State) (self : CoreId) (addr : Word) (v : Word) : Res (Word × State) :=
  if aligned addr 4 then
    match translate s.cfg self addr with
    | .core c off =>
      if c = self then .memoryFault addr true s
      else if inWindow s.cfg.window off then .refused .testSetInWindow
      else
        let old := (s.core c).load s.cfg.window off .b4
        .ok (old, if old = 0 then s.setCore c { s.core c with mem := writeBytes (s.core c).mem off v .b4 } else s)
    | _ => .memoryFault addr true s
  else .misaligned addr

end Sys2Proof.Machine
end

