-- ==== Sys2Proof/Machine/Ops.lean ====
section
/-! DEFINITION. The named operations of the executing core: its registers and flags, halting on a fault (R336),
latching an interrupt (R343), TAKING an interrupt (R346) and returning from one (R310), applying the control signal
(R361, R362), and running one instruction's execute to its end. -/

namespace Sys2Proof.Machine

/-! ## The registers of the executing core (R9, R22, R31 (b)) -/

/-- The executing core `self`. -/
def State.me (s : State) : ECore := s.core s.self

/-- Change the executing core. -/
def State.modMe (s : State) (f : ECore → ECore) : State := s.setCore s.self (f s.me)

/-- `x[i]`: word `i` of the window (R22). -/
def State.reg (s : State) (i : RegIdx) : Word := s.me.word i.toNat

/-- `x[i] <- v` (R22). -/
def State.setReg (s : State) (i : RegIdx) (v : Word) : State := s.modMe fun c => c.setWord i.toNat v

/-- `sr[NAME]` (R9). -/
def State.ctl (s : State) (r : Ctl) : Word := s.me.ctl r

/-- `sr[NAME] <- v`, the engine's own write, without side effect (R31 (b)). -/
def State.setCtl (s : State) (r : Ctl) (v : Word) : State := s.modMe fun c => c.setCtl r v

/-- `pc` (R26). -/
def State.pc (s : State) : Word := s.ctl .pc

/-- `pc <- target`. -/
def State.setPc (s : State) (v : Word) : State := s.setCtl .pc v

/-- `STATUS.F` for the flag at bit `b` (R33). -/
def State.flag (s : State) (b : Nat) : Bool := (s.ctl .status).getLsbD b

/-- `STATUS.F <- v`, the engine's own write. -/
def State.setFlag (s : State) (b : Nat) (v : Bool) : State := s.setCtl .status (setBit (s.ctl .status) b v)

/-- Emit a notification of the executing core (R363). -/
def State.note (s : State) (n : Note) : State := s.modMe fun c => { c with notes := n :: c.notes }

/-! ## Halting on a fault (R336) -/

/-- `Halt(self, notification)`: ACTIVE is cleared and the notification emitted, nothing else changes. -/
def halt (s : State) (n : Note) : State := (s.setFlag bitActive false).note n

/-! ## Latching an interrupt (R343 to R345) -/

/-- The code of a cause (R345). -/
def causeCode (codes : CauseCodes) : Cause → BitVec 4
  | .unimplemented => codes.unimplemented
  | .softwareInterrupt => codes.softwareInterrupt
  | .unalignedAccess => codes.unalignedAccess
  | .illegalAccess => codes.illegalAccess
  | .floatingPoint => codes.floatingPoint

/-- STATUS with its EXCAUSE field written: 3 bits on `EpiphanyIII`, 4 on `EpiphanyIV` (R345). -/
def writeCause (cfg : Config) (status : Word) (cause : Cause) : Word :=
  setField status excauseLo (excauseBits cfg.arch) ((causeCode cfg.causes cause).setWidth 32)

/-- The effect of `Trigger` on the target core (R343): the latch bit, and the cause field if a cause is given. -/
def ECore.latch (cfg : Config) (x : ECore) (irq : Fin 9) (cause : Option Cause) : ECore :=
  let y := x.setCtl .ilat (setBit (x.ctl .ilat) irq true)
  match cause with
  | some q => y.setCtl .status (writeCause cfg (y.ctl .status) q)
  | none => y

/-- `Trigger(c, i, cause)` (R343). It does not deliver. -/
def trigger (s : State) (c : CoreId) (irq : Fin 9) (cause : Option Cause) : State :=
  s.setCore c ((s.core c).latch s.cfg irq cause)

/-- The pairing of R344: a cause is given exactly for the software exception and the user level. -/
def pairingOk (irq : Fin 9) (cause : Option Cause) : Bool := cause.isSome == (irq == irqSwExc || irq == irqUser)

/-! ## Taking an interrupt and returning from one (R310, R346 to R352) -/

/-- `IPEND[i:0] = 0`: no interrupt of the same or a higher priority is pending (R346). -/
def nonePending (ipend : Word) (i : Nat) : Bool := (List.range (i + 1)).all fun j => !ipend.getLsbD j

/-- The interrupt `Update` delivers: the first latched, unmasked level not blocked by a pending one (R346). -/
def deliverable (x : ECore) : Option Nat :=
  if (x.ctl .status).getLsbD bitGid then none
  else (List.range 9).find? fun i =>
    (x.ctl .ilat).getLsbD i && !(x.ctl .imask).getLsbD i && nonePending (x.ctl .ipend) i

/-- Does interrupt entry switch to kernel mode (R36, R346: `CONFIG_KM_EN`)? -/
def entersKernel (cfg : Config) (x : ECore) : Bool :=
  match cfg.kmEn with
  | some b => (x.ctl .config).getLsbD b
  | none => false

/-- STATUS after interrupt entry (R346): GID set, and KERNEL set where the CONFIG bit says so. -/
def entryStatus (cfg : Config) (x : ECore) : Word :=
  setBit (if entersKernel cfg x then setBit (x.ctl .status) bitKernel true else x.ctl .status) bitGid true

/-- TAKING interrupt `i` on a core (R346, R348 to R350): `pc` is saved in IRET, the latch bit cleared, the pending bit
set, interrupts disabled, kernel mode entered if so configured, `pc` set to the vector, the core woken. -/
def enterInterrupt (cfg : Config) (x : ECore) (i : Nat) : ECore :=
  { ((((x.setCtl .iret (x.ctl .pc)).setCtl .ilat (setBit (x.ctl .ilat) i false)).setCtl .ipend
      (setBit (x.ctl .ipend) i true)).setCtl .status (entryStatus cfg x)).setCtl .pc
      (cfg.vectorBase + BitVec.ofNat 32 (4 * i)) with idle := false }

/-- `Update(self)` (R346): the state after delivery, or `none` where nothing is delivered. -/
def update (s : State) : Option State :=
  match deliverable s.me with
  | some i => some (s.modMe fun x => enterInterrupt s.cfg x i)
  | none => none

/-- The highest-priority pending level: the lowest set bit of IPEND[8:0] (R310). -/
def lowestPending (ipend : Word) : Option Nat := (List.range 9).find? fun i => ipend.getLsbD i

/-- RETURNING from an interrupt on a core (R310, R352): the lowest pending bit and GID are cleared and `pc` is set to
IRET. -/
def leaveInterrupt (x : ECore) : ECore :=
  let y := match lowestPending (x.ctl .ipend) with
    | some i => x.setCtl .ipend (setBit (x.ctl .ipend) i false)
    | none => x
  (y.setCtl .status (setBit (y.ctl .status) bitGid false)).setCtl .pc (y.ctl .iret)

/-! ## The end of an instruction (R10, R361 to R363) -/

/-- Set the idle flag of the executing core if the signal is `Idle` (R361, R362). -/
def applyIdle (sig : Signal) (s : State) : State :=
  match sig with
  | .idle => s.modMe fun c => { c with idle := true }
  | _ => s

/-- Does the hardware loop take precedence, `a` being the address of the instruction executed (R362)? -/
def loopWraps (a : Word) (s : State) : Bool := a == s.ctl .le && s.ctl .lc != 0

/-- Apply the control signal of an instruction of `width` bytes at address `a`, unless the hardware loop takes
precedence (R361, R362). -/
def applySignal (width : Nat) (a : Word) (sig : Signal) (s : State) : State :=
  if loopWraps a s then (s.setCtl .lc (s.ctl .lc - 1)).setPc (s.ctl .ls)
  else
    match sig with
    | .none => s
    | _ => s.setPc (s.pc + BitVec.ofNat 32 width)

/-- Steps (m) and (n) of the tick (R355): the control signal, then "valid instruction executed" (R363). -/
def complete (width : Nat) (a : Word) (sig : Signal) (s : State) : State :=
  (applySignal width a sig (applyIdle sig s)).note .validInstruction

/-- Steps (k), (m) and (n) of the tick (R355) for an instruction of `width` bytes with the given execute: a memory
fault halts the core with the effects made so far kept (R332), a misaligned access abandons the instruction, triggers
the software exception and goes on (R333). -/
def runInstr (width : Nat) (s : State) (r : Res (Signal × State)) : Host.Outcome State Fault Refusal :=
  match r with
  | .ok (sig, t) => .next (complete width s.pc sig t)
  | .memoryFault addr w t => .next (halt t (.invalidMemoryAccess addr w))
  | .misaligned _ => .next (complete width s.pc .next (trigger s s.self irqSwExc (some .unalignedAccess)))
  | .refused x => .refused x

/-- An execute that cannot be raised or refused and returns `Next`. -/
def runNext (width : Nat) (s t : State) : Host.Outcome State Fault Refusal := runInstr width s (.ok (.next, t))

end Sys2Proof.Machine
end

