-- ==== Sys2Proof/Machine/Operands.lean ====
section
/-! DEFINITION. Operand forms (R125, R221, R226, R227): register numbers, immediates, effective addresses, and the
loads and stores of a transfer size. -/

namespace Sys2Proof.Machine

/-- A 3-bit register field names R0..R7 (R24). -/
def lowReg (r : RegLow) : RegIdx := r.setWidth 6

/-- The second register of a doubleword pair (R221). -/
def pairReg (r : RegIdx) : RegIdx := r + 1

/-- A sign-extended immediate (R125). -/
def sextImm {n : Nat} (v : BitVec n) : Word := v.signExtend 32

/-- A zero-extended immediate (R125). -/
def zextImm {n : Nat} (v : BitVec n) : Word := v.setWidth 32

/-- A branch displacement: signed, in halfwords (R125, R251). -/
def branchDisp {n : Nat} (v : BitVec n) : Word := sextImm v <<< 1

/-- The transfer size as a power of two (R220). -/
def sizeLog : Size → Nat
  | .byte => 0
  | .half => 1
  | .word => 2
  | .double => 3

/-- A displacement scaled by the transfer size (R226). -/
def scaledDisp {n : Nat} (v : BitVec n) (size : Size) : Word := zextImm v <<< sizeLog size

/-- A base plus or, when `sub` is set, minus an offset, modulo 2^32 (R226). -/
def effAddr (base off : Word) (sub : Bool) : Word := if sub then base - off else base + off

/-- The access that moves a size of at most a word; for a doubleword, of each half. -/
def sizeAccess : Size → Access
  | .byte => .b1
  | .half => .b2
  | .word => .b4
  | .double => .b4

/-- `LoadN(ea, size, rd)` (R221). -/
def loadN (s : State) (ea : Word) (size : Size) (rd : RegIdx) : Res State :=
  if size = .double then
    if aligned ea 8 then
      (memRead s s.self ea .b4).bind fun lo =>
        (memRead (s.setReg rd lo) s.self (ea + 4) .b4).bind fun hi =>
          .ok ((s.setReg rd lo).setReg (pairReg rd) hi)
    else .misaligned ea
  else (memRead s s.self ea (sizeAccess size)).bind fun v => .ok (s.setReg rd v)

/-- `StoreN(ea, size, d0, d1)` (R221). -/
def storeN (s : State) (ea : Word) (size : Size) (d0 d1 : Word) : Res State :=
  if size = .double then
    if aligned ea 8 then (memWrite s s.self ea .b4 d0).bind fun t => memWrite t s.self (ea + 4) .b4 d1
    else .misaligned ea
  else memWrite s s.self ea (sizeAccess size) d0

/-- The local address of a control register by group and index (R203). -/
def ctlAddr (w : RegWindow) (group : BitVec 2) (sn : BitVec 6) : Word :=
  BitVec.ofNat 32 (w.base + 0x400 + 0x100 * group.toNat + 4 * sn.toNat)

end Sys2Proof.Machine
end

