-- ==== Sys2Proof/Machine/Flags.lean ====
section
/-! DEFINITION. The integer results and flags (R160 to R174), the condition codes (R250) and the writing of the float
flags (R274). -/

namespace Sys2Proof.Machine

/-! ## Integer results and flags (R160) -/

/-- The operations of the integer ALU. -/
inductive AluOp where
  | add
  | sub
  | and
  | orr
  | eor
  | lsl
  | lsr
  | asr
deriving DecidableEq, Repr

/-- The shift amount a register gives: `rm[4:0]` (R168), unless configured otherwise (U20). -/
def shiftAmount (alu : AluConfig) (b : Word) : Nat := if alu.shiftFullCount then min b.toNat 32 else b.toNat % 32

/-- The result of an ALU operation on two words. -/
def aluResult (alu : AluConfig) (op : AluOp) (a b : Word) : Word :=
  match op with
  | .add => a + b
  | .sub => a - b
  | .and => a &&& b
  | .orr => a ||| b
  | .eor => a ^^^ b
  | .lsl => a <<< shiftAmount alu b
  | .lsr => a >>> shiftAmount alu b
  | .asr => a.sshiftRight (shiftAmount alu b)

/-- The carry of an addition: `a + b >= 2^32` (R161). -/
def addCarry (a b : Word) : Bool := decide (a.toNat + b.toNat ≥ 2 ^ 32)

/-- The carry of a subtraction: 1 when `a >= b`, no borrow (R163), unless configured otherwise (U20). -/
def subCarry (alu : AluConfig) (a b : Word) : Bool := decide (a.toNat ≥ b.toNat) != alu.subCarryIsBorrow

/-- The overflow of an addition (R161). -/
def addOverflow (a b r : Word) : Bool := a.getLsbD 31 == b.getLsbD 31 && r.getLsbD 31 != a.getLsbD 31

/-- The overflow of a subtraction (R163). -/
def subOverflow (a b r : Word) : Bool := a.getLsbD 31 != b.getLsbD 31 && r.getLsbD 31 != a.getLsbD 31

/-- STATUS with AZ and AN written from a result and AC and AV as given (R160). -/
def intFlags (st r : Word) (c v : Bool) : Word :=
  setBit (setBit (setBit (setBit st bitAZ (r == 0)) bitAN (r.getLsbD 31)) bitAC c) bitAV v

/-- STATUS after an addition or subtraction: the four flags, and AVS set if AV is (R160). -/
def arithFlags (st r : Word) (c v : Bool) : Word := setBit (intFlags st r c v) bitAVS (st.getLsbD bitAVS || v)

/-- STATUS after a logic, shift or bit-reverse instruction: AC and AV are cleared (R160), unless configured otherwise
(U20); AVS is unchanged. -/
def logicFlags (alu : AluConfig) (st r : Word) : Word :=
  intFlags st r (alu.logicKeepsCarry && st.getLsbD bitAC) (alu.logicKeepsCarry && st.getLsbD bitAV)

/-- STATUS after an ALU operation on `a` and `b` (R160). -/
def aluStatus (alu : AluConfig) (op : AluOp) (st a b : Word) : Word :=
  match op with
  | .add => arithFlags st (a + b) (addCarry a b) (addOverflow a b (a + b))
  | .sub => arithFlags st (a - b) (subCarry alu a b) (subOverflow a b (a - b))
  | _ => logicFlags alu st (aluResult alu op a b)

/-- Every two neighbouring groups of `n` bits exchanged; `m` masks the lower group of each pair. -/
def swapGroups (a : Word) (n : Nat) (m : Word) : Word := ((a >>> n) &&& m) ||| ((a &&& m) <<< n)

/-- The word with its bits in reverse order (R174): bit `i` of the result is bit `31 - i` of the word. -/
def bitReverse (a : Word) : Word :=
  swapGroups (swapGroups (swapGroups (swapGroups (swapGroups a 1 0x55555555) 2 0x33333333) 4 0x0F0F0F0F) 8 0x00FF00FF)
    16 0x0000FFFF

/-! ## Condition codes (R250) -/

/-- A predicate on a STATUS word. The carry is read as "no borrow", whatever polarity AC has after a subtraction, so
that rows 2 to 5 follow that polarity (R250, U20). -/
def evalCond (alu : AluConfig) (st : Word) : CondExpr → Bool
  | .tt => true
  | .az => st.getLsbD bitAZ
  | .an => st.getLsbD bitAN
  | .ac => st.getLsbD bitAC != alu.subCarryIsBorrow
  | .av => st.getLsbD bitAV
  | .bz => st.getLsbD bitBZ
  | .bn => st.getLsbD bitBN
  | .not p => !evalCond alu st p
  | .and p q => evalCond alu st p && evalCond alu st q
  | .or p q => evalCond alu st p || evalCond alu st q
  | .same p q => evalCond alu st p == evalCond alu st q

/-- The predicate of a condition code. -/
def condExprOf (t : CondTable) : Cond → CondExpr
  | .eq => t.eq
  | .ne => t.ne
  | .gtu => t.gtu
  | .gteu => t.gteu
  | .lteu => t.lteu
  | .ltu => t.ltu
  | .gt => t.gt
  | .gte => t.gte
  | .lt => t.lt
  | .lte => t.lte
  | .beq => t.beq
  | .bne => t.bne
  | .blt => t.blt
  | .blte => t.blte
  | .always => t.always
  | .link => t.link

/-- `Cond(c)` on a STATUS word (R250), by the predicates of the configuration (U21). -/
def condHolds (cfg : Config) (st : Word) (c : Cond) : Bool := evalCond cfg.alu st (condExprOf cfg.conds c)

/-! ## Float flags (R274) -/

/-- STATUS with BZ, BN and BV written. -/
def floatFlags (st : Word) (z n v : Bool) : Word := setBit (setBit (setBit st bitBZ z) bitBN n) bitBV v

/-- STATUS after FADD, FSUB, FMUL, FMADD or FMSUB (R274). -/
def fpArithStatus (st : Word) (r : FpResult) : Word :=
  setBit (setBit (setBit (floatFlags st (r.word &&& 0x7FFFFFFF#32 == 0) (r.word.getLsbD 31) r.overflow) bitBIS
    (st.getLsbD bitBIS || r.invalid)) bitBVS (st.getLsbD bitBVS || r.overflow)) bitBUS (st.getLsbD bitBUS || r.underflow)

/-- BV after FLOAT and FIX: cleared (R274), unless configured otherwise (U25). -/
def convOverflow (fp : FpConfig) (st : Word) : Bool := !fp.convClearsBv && st.getLsbD bitBV

/-- STATUS after FLOAT (R274). -/
def floatStatus (fp : FpConfig) (st r : Word) : Word :=
  floatFlags st (r &&& 0x7FFFFFFF#32 == 0) (r.getLsbD 31) (convOverflow fp st)

/-- STATUS after FIX (R274). -/
def fixStatus (fp : FpConfig) (st : Word) (r : FpResult) : Word :=
  setBit (floatFlags st (r.word == 0) (r.word.getLsbD 31) (convOverflow fp st)) bitBIS (st.getLsbD bitBIS || r.invalid)

/-- STATUS after FABS (R274). -/
def fabsStatus (st r : Word) : Word := floatFlags st (r &&& 0x7FFFFFFF#32 == 0) false false

end Sys2Proof.Machine
end

