-- ==== Sys2Proof/Machine/Branch.lean ====
section
/-! DEFINITION. Branches and register jumps (spec file 43_branch.md, R250 to R257). -/

namespace Sys2Proof.Machine

/-- The link value of an instruction of `width` bytes: the address after it (R252), unless configured otherwise
(R258, U21). -/
def linkValue (width : Nat) (s : State) : Word :=
  s.pc + if width = 2 then s.cfg.link.after16 else s.cfg.link.after32

/-- The link register written with the link value (R252, R254). -/
def writeLink (width : Nat) (s : State) : State := s.setReg s.cfg.link.reg (linkValue width s)

/-- B<cond>: a taken branch sets `pc`, and the link register first when the condition is 15 (R251, R252). -/
def branchIf (width : Nat) (s : State) (cond : Cond) (disp : Word) : Host.Outcome State Fault Refusal :=
  if condHolds s.cfg (s.ctl .status) cond then
    runInstr width s (.ok (.none,
      (if cond = .link then writeLink width s else s).setPc (s.pc + disp)))
  else runNext width s s

/-- JR (R253). -/
def jumpReg (width : Nat) (s : State) (rn : RegIdx) : Host.Outcome State Fault Refusal :=
  runInstr width s (.ok (.none, s.setPc (s.reg rn)))

/-- JALR: the target is read before the link register is written (R254). -/
def jumpLink (width : Nat) (s : State) (rn : RegIdx) : Host.Outcome State Fault Refusal :=
  runInstr width s (.ok (.none, (writeLink width s).setPc (s.reg rn)))

/-- B<cond> (R251), 16-bit form. -/
def execBcond16 (simm8 : BitVec 8) (cond : Cond) (s : State) : Host.Outcome State Fault Refusal :=
  branchIf 2 s cond (branchDisp simm8)

/-- B<cond> (R251), 32-bit form. -/
def execBcond32 (simm24 : BitVec 24) (cond : Cond) (s : State) : Host.Outcome State Fault Refusal :=
  branchIf 4 s cond (branchDisp simm24)

/-- JR (R253), 16-bit form. -/
def execJr16 (rn : RegLow) (s : State) : Host.Outcome State Fault Refusal :=
  jumpReg 2 s (lowReg rn)

/-- JR (R253), 32-bit form. -/
def execJr32 (rn : RegIdx) (s : State) : Host.Outcome State Fault Refusal :=
  jumpReg 4 s rn

/-- JALR (R254), 16-bit form. -/
def execJalr16 (rn : RegLow) (s : State) : Host.Outcome State Fault Refusal :=
  jumpLink 2 s (lowReg rn)

/-- JALR (R254), 32-bit form. -/
def execJalr32 (rn : RegIdx) (s : State) : Host.Outcome State Fault Refusal :=
  jumpLink 4 s rn

end Sys2Proof.Machine
end

