-- ==== Sys2Proof/Machine/FloatNum.lean ====
section
/-! DEFINITION. `FpNumerics`, the single-precision arithmetic (R270 to R283). A finite operand is an integer number of
2^-149, an exact result an integer number of 2^-298: every sum and product is computed exactly and rounded once. Last
come the functions the instructions use, which take `ARCH` (R287). -/

namespace Sys2Proof.Machine

/-! ## Format (R272) -/

def fpSign (b : Word) : Bool := b.getLsbD 31
def fpExp (b : Word) : Nat := (b.extractLsb' 23 8).toNat
def fpFrac (b : Word) : Nat := (b.extractLsb' 0 23).toNat

def isNaN (b : Word) : Bool := fpExp b == 255 && fpFrac b != 0
def isInf (b : Word) : Bool := fpExp b == 255 && fpFrac b == 0
def isDenormal (b : Word) : Bool := fpExp b == 0 && fpFrac b != 0
def isZero (b : Word) : Bool := fpExp b == 0 && fpFrac b == 0

/-- A magnitude with a sign. -/
def withSign (sign : Bool) (mag : Word) : Word := if sign then mag ||| 0x80000000#32 else mag

/-- `FlushIn(b)`: a denormal is read as the zero of its sign (R272). -/
def flushIn (b : Word) : Word := if isDenormal b then b &&& 0x80000000#32 else b

/-- `QNaN(s)` (R272). -/
def qNaN (fp : FpConfig) (sign : Bool) : Word := withSign sign (0x7FC00000#32 ||| fp.qnanLow.setWidth 32)

/-- The infinity of a sign. -/
def infinity (sign : Bool) : Word := withSign sign 0x7F800000#32

/-- The magnitude of a finite word in units of 2^-149. -/
def fpMag (b : Word) : Nat := if fpExp b = 0 then fpFrac b else (0x800000 + fpFrac b) <<< (fpExp b - 1)

/-- An integer of a magnitude and a sign. -/
def signedInt (sign : Bool) (mag : Nat) : Int := if sign then -(mag : Int) else mag

/-- The value of a finite word in units of 2^-149. -/
def fpValue (b : Word) : Int := signedInt (fpSign b) (fpMag b)

/-! ## Rounding (R273) -/

/-- Bits above the 24 of the significand. -/
def excessBits (n : Nat) : Nat := Nat.log2 n + 1 - 24

/-- Is `n / 2^k` rounded up: never under truncation, else above the tie, or at the tie to an even significand? -/
def roundsUp (trunc : Bool) (n k : Nat) : Bool :=
  !trunc && k != 0 &&
    (decide (n % (1 <<< k) > 1 <<< (k - 1)) || (n % (1 <<< k) == 1 <<< (k - 1) && (n >>> k) % 2 == 1))

/-- `n / 2^k` rounded to an integer. -/
def roundShift (trunc : Bool) (n k : Nat) : Nat := (n >>> k) + (if roundsUp trunc n k then 1 else 0)

/-- `Round(RMODE, x)` on magnitudes: 24 significant bits, exponent unbounded (R273). -/
def roundMag (trunc : Bool) (n : Nat) : Nat := roundShift trunc n (excessBits n) <<< excessBits n

/-- 2^-126 and 2^128 in units of 2^-298. -/
def minNormal : Nat := 1 <<< 172
def overflowBound : Nat := 1 <<< 426

/-- The word of a rounded magnitude in the normal range, in units of 2^-298. -/
def encodeMag (sign : Bool) (n : Nat) : Word :=
  withSign sign (BitVec.ofNat 32 (((Nat.log2 n - 171) <<< 23) + ((n >>> (Nat.log2 n - 23)) - 0x800000)))

/-- A NaN result with the invalid event (R273, R275). -/
def fpInvalid (fp : FpConfig) (sign : Bool) : FpResult :=
  { word := qNaN fp sign, invalid := true, overflow := false, underflow := false }

/-- An infinite exact result (R273): an overflow event, unless configured otherwise (U25). -/
def fpInfinite (fp : FpConfig) (sign : Bool) : FpResult :=
  { word := infinity sign, invalid := false, overflow := fp.infOperandOverflows, underflow := false }

/-- The word an overflow returns (R273). -/
def overflowWord (fp : FpConfig) (trunc sign : Bool) : Word :=
  if trunc && fp.truncOverflowIsMax then withSign sign 0x7F7FFFFF#32 else infinity sign

/-- The end of `FpArith` (R273) for a finite exact result, in units of 2^-298; `zeroSign` is the sign of an exact
zero. -/
def fpRound (fp : FpConfig) (trunc zeroSign : Bool) (exact : Int) : FpResult :=
  let r := roundMag trunc exact.natAbs
  let sign := decide (exact < 0)
  if exact = 0 then { word := withSign zeroSign 0, invalid := false, overflow := false, underflow := false }
  else if overflowBound ≤ r then
    { word := overflowWord fp trunc sign, invalid := false, overflow := true, underflow := false }
  else if (if fp.underflowAfterRounding then r else exact.natAbs) < minNormal then
    { word := withSign sign 0, invalid := false, overflow := false, underflow := true }
  else { word := encodeMag sign r, invalid := false, overflow := false, underflow := false }

/-! ## The five arithmetic operations (R273, R275, R277 to R281) -/

/-- The sum of two flushed operands; `nanSign` is the sign of a NaN result. -/
def fpSum (fp : FpConfig) (trunc nanSign : Bool) (a b : Word) : FpResult :=
  if isNaN a || isNaN b || (isInf a && isInf b && fpSign a != fpSign b) then fpInvalid fp nanSign
  else if isInf a then fpInfinite fp (fpSign a)
  else if isInf b then fpInfinite fp (fpSign b)
  else fpRound fp trunc (fpSign a && fpSign b) ((fpValue a + fpValue b) * (1 <<< 149 : Nat))

/-- FADD (R277). -/
def fpAdd (fp : FpConfig) (trunc : Bool) (a b : Word) : FpResult :=
  fpSum fp trunc (fpSign a != fpSign b) (flushIn a) (flushIn b)

/-- FSUB (R278); the sign of a NaN is taken from the operands as read (R275). -/
def fpSub (fp : FpConfig) (trunc : Bool) (a b : Word) : FpResult :=
  fpSum fp trunc (fpSign a != fpSign b) (flushIn a) (flushIn b ^^^ 0x80000000#32)

/-- Is the product of two flushed operands undefined: a zero times an infinity (R275)? -/
def productUndefined (a b : Word) : Bool := (isZero a && isInf b) || (isInf a && isZero b)

/-- FMUL (R279). -/
def fpMul (fp : FpConfig) (trunc : Bool) (a0 b0 : Word) : FpResult :=
  let a := flushIn a0
  let b := flushIn b0
  let sign := fpSign a != fpSign b
  if isNaN a || isNaN b || productUndefined a b then fpInvalid fp sign
  else if isInf a || isInf b then fpInfinite fp sign
  else fpRound fp trunc sign (fpValue a * fpValue b)

/-- The product of two finite operands in units of 2^-298, as it enters the addition: exact (R280), or rounded first
where so configured (U24). DESIGN CHOICE (log entry 12): U24 asks for the rounding alone, so the product of the unfused
alternative is rounded to 24 bits with an unbounded exponent: it is neither flushed nor overflowed and raises no event
of its own. -/
def fmaProduct (fp : FpConfig) (trunc sign : Bool) (a b : Word) : Int :=
  signedInt sign (if fp.fused then fpMag a * fpMag b else roundMag trunc (fpMag a * fpMag b))

/-- FMADD, and FMSUB when `negate` is set (R280, R281): `c + a * b` or `c - a * b`. -/
def fpFma (fp : FpConfig) (trunc negate nanSign : Bool) (a0 b0 c0 : Word) : FpResult :=
  let a := flushIn a0
  let b := flushIn b0
  let c := flushIn c0
  let sign := (fpSign a != fpSign b) != negate
  let infProduct := isInf a || isInf b
  if isNaN a || isNaN b || isNaN c || productUndefined a b || (infProduct && isInf c && sign != fpSign c) then
    fpInvalid fp nanSign
  else if infProduct then fpInfinite fp sign
  else if isInf c then fpInfinite fp (fpSign c)
  else fpRound fp trunc (sign && fpSign c) (fpValue c * (1 <<< 149 : Nat) + fmaProduct fp trunc sign a b)

/-! ## Conversions and absolute value (R282 to R284) -/

/-- FLOAT (R282). -/
def fpFloat (fp : FpConfig) (trunc : Bool) (a : Word) : Word :=
  (fpRound fp trunc false (a.toInt * (1 <<< 298 : Nat))).word

/-- The integer FIX returns for a sign and an integer magnitude, saturated (R283). -/
def fixSaturate (sign : Bool) (n : Nat) : FpResult :=
  if sign then
    if n > 0x80000000 then { word := 0x80000000, invalid := true, overflow := false, underflow := false }
    else { word := -(BitVec.ofNat 32 n), invalid := false, overflow := false, underflow := false }
  else if n > 0x7FFFFFFF then { word := 0x7FFFFFFF, invalid := true, overflow := false, underflow := false }
  else { word := BitVec.ofNat 32 n, invalid := false, overflow := false, underflow := false }

/-- FIX (R283). -/
def fpFix (trunc : Bool) (a : Word) : FpResult :=
  if isNaN a || isInf a then
    { word := if fpSign a then 0x80000000 else 0x7FFFFFFF, invalid := true, overflow := false, underflow := false }
  else if isDenormal a then { word := 0, invalid := false, overflow := false, underflow := false }
  else fixSaturate (fpSign a) (roundShift trunc (fpMag a) 149)

/-- FABS (R284). DESIGN CHOICE (log entry 12): where a NaN operand is made quiet (U25), its bit 22 is set and the rest
of its payload kept; the spec asks only whether it is made quiet. -/
def fpAbs (fp : FpConfig) (a : Word) : Word :=
  let r := flushIn a &&& 0x7FFFFFFF#32
  if fp.fabsQuietsNan && isNaN a then r ||| 0x00400000#32 else r

/-! ## `FpNumerics`, by version (R287) -/

/-- The sign of a NaN result: of the two-operand instructions the XOR of the operands' signs, of FMADD and FMSUB a free
one (R275, U23). -/
def nanSignOf (op : FpArithOp) (free : Bool) (a b : Word) : Bool :=
  match op with
  | .fadd => fpSign a != fpSign b
  | .fsub => fpSign a != fpSign b
  | .fmul => fpSign a != fpSign b
  | .fmadd => free
  | .fmsub => free

/-- `FpArith` on the numeric path of 44_float.md (R273), with a version's options. -/
def rulePath (fp : FpConfig) (op : FpArithOp) (trunc free : Bool) (a b c : Word) : FpResult :=
  match op with
  | .fadd => fpAdd fp trunc a b
  | .fsub => fpSub fp trunc a b
  | .fmul => fpMul fp trunc a b
  | .fmadd => fpFma fp trunc false free a b c
  | .fmsub => fpFma fp trunc true free a b c

/-- Is one of the operands of an operation a NaN? FMADD and FMSUB have three. -/
def nanOperand (op : FpArithOp) (a b c : Word) : Bool :=
  match op with
  | .fadd => isNaN a || isNaN b
  | .fsub => isNaN a || isNaN b
  | .fmul => isNaN a || isNaN b
  | .fmadd => isNaN a || isNaN b || isNaN c
  | .fmsub => isNaN a || isNaN b || isNaN c

/-- `FpArith` on another numeric path (R287): a free result and free events, within what R285 (a) to (c) say. -/
def otherPath (fp : FpConfig) (arch : Arch) (op : FpArithOp) (trunc free : Bool) (a b c : Word) : FpResult :=
  let r := Config.arithPath arch op trunc (flushIn a) (flushIn b) (flushIn c)
  { r with word := if nanOperand op a b c then qNaN fp (nanSignOf op free a b) else flushIn r.word }

/-- `FpArith` of a version (R273, R287); `free` is the sign of a NaN from FMADD or FMSUB. -/
def fpArith (n : FpNumerics) (arch : Arch) (op : FpArithOp) (trunc free : Bool) (a b c : Word) : FpResult :=
  if (n.options arch).otherArith.contains op then otherPath (n.options arch) arch op trunc free a b c
  else rulePath (n.options arch) op trunc free a b c

/-- FLOAT of a version (R282, R287): on another path a free word, flushed (R270). -/
def floatOf (n : FpNumerics) (arch : Arch) (trunc : Bool) (a : Word) : Word :=
  if (n.options arch).otherUnary.contains .float then flushIn (Config.unaryPath arch .float trunc a).word
  else fpFloat (n.options arch) trunc a

/-- FIX on another path, within what R285 (d) to (f) say: which bound a NaN saturates to, the result for an infinity or
a value out of range, and the event are free. -/
def otherFix (arch : Arch) (trunc : Bool) (a : Word) : FpResult :=
  let r := Config.unaryPath arch .fix trunc a
  { word := if isNaN a then (if r.word.getLsbD 31 then 0x80000000#32 else 0x7FFFFFFF#32)
      else if (fpFix trunc a).invalid then r.word else (fpFix trunc a).word,
    invalid := r.invalid, overflow := false, underflow := false }

/-- FIX of a version (R283, R287). -/
def fixOf (n : FpNumerics) (arch : Arch) (trunc : Bool) (a : Word) : FpResult :=
  if (n.options arch).otherUnary.contains .fix then otherFix arch trunc a else fpFix trunc a

/-- FABS of a version (R284, R287): on another path a free word without sign, flushed (R270). -/
def absOf (n : FpNumerics) (arch : Arch) (trunc : Bool) (a : Word) : Word :=
  if (n.options arch).otherUnary.contains .fabs then
    flushIn ((Config.unaryPath arch .fabs trunc (flushIn a)).word &&& 0x7FFFFFFF#32)
  else fpAbs (n.options arch) a

end Sys2Proof.Machine
end

