-- ==== Sys2Proof/Machine/Float.lean ====
section
/-! DEFINITION. Floating-point instructions (spec file 44_float.md, R270 to R286). -/

namespace Sys2Proof.Machine

/-- CONFIG.ARITHMODE selects float operation (R271). -/
def floatMode (s : State) : Bool := (s.ctl .config).extractLsb' arithModeLo 3 == 0#3

/-- CONFIG.RMODE: truncate instead of rounding to nearest (R36). -/
def truncMode (s : State) : Bool := (s.ctl .config).getLsbD bitRmode

/-- Has a result an event whose CONFIG enable bit is set (R276)? -/
def eventEnabled (config : Word) (r : FpResult) : Bool :=
  (r.invalid && config.getLsbD bitIen) || (r.overflow && config.getLsbD bitOen) ||
    (r.underflow && config.getLsbD bitUen)

/-- The floating-point exception: after `rd` and the flags, one `Trigger` if an enabled event occurred (R276). -/
def raiseFloat (s : State) (r : FpResult) : State :=
  if eventEnabled (s.ctl .config) r then trigger s s.self irqSwExc (some .floatingPoint) else s

/-- `rd`, then STATUS, then the exception (R274, R276). -/
def floatWrite (s : State) (rd : RegIdx) (status : Word) (r : FpResult) : State :=
  raiseFloat ((s.setReg rd r.word).setCtl .status status) r

/-- A float instruction in float mode; in another arithmetic mode it is refused (R271, U22). -/
def runFloat (width : Nat) (s t : State) : Host.Outcome State Fault Refusal :=
  if floatMode s then runNext width s t else .refused .arithModeNotFloat

/-- The two-operand arithmetic instructions (R277 to R279). -/
def floatArith (width : Nat) (s : State) (op : FpArithOp) (rd rn rm : RegIdx) : Host.Outcome State Fault Refusal :=
  let r := fpArith s.cfg.fp s.cfg.arch op (truncMode s) false (s.reg rn) (s.reg rm) 0
  runFloat width s (floatWrite s rd (fpArithStatus (s.ctl .status) r) r)

/-- The result of FMADD or FMSUB; the sign of a NaN is the free value `Config.fmaNanSign` (R275, U23). -/
def fmaResult (s : State) (op : FpArithOp) (rd rn rm : RegIdx) : FpResult :=
  fpArith s.cfg.fp s.cfg.arch op (truncMode s) (Config.fmaNanSign s.fresh (s.reg rn) (s.reg rm) (s.reg rd)) (s.reg rn)
    (s.reg rm) (s.reg rd)

/-- FMADD and FMSUB (R280, R281); each uses up one free value. -/
def floatFma (width : Nat) (s : State) (op : FpArithOp) (rd rn rm : RegIdx) : Host.Outcome State Fault Refusal :=
  let r := fmaResult s op rd rn rm
  runFloat width s (floatWrite { s with fresh := s.fresh + 1 } rd (fpArithStatus (s.ctl .status) r) r)

/-- FLOAT (R282): no event is possible. -/
def floatFromInt (width : Nat) (s : State) (rd rn : RegIdx) : Host.Outcome State Fault Refusal :=
  let r := floatOf s.cfg.fp s.cfg.arch (truncMode s) (s.reg rn)
  runFloat width s ((s.setReg rd r).setCtl .status (floatStatus (s.cfg.fp.options s.cfg.arch) (s.ctl .status) r))

/-- FIX (R283). -/
def floatToInt (width : Nat) (s : State) (rd rn : RegIdx) : Host.Outcome State Fault Refusal :=
  let r := fixOf s.cfg.fp s.cfg.arch (truncMode s) (s.reg rn)
  runFloat width s (floatWrite s rd (fixStatus (s.cfg.fp.options s.cfg.arch) (s.ctl .status) r) r)

/-- FABS (R284): a bit operation without events. -/
def floatAbs (width : Nat) (s : State) (rd rn : RegIdx) : Host.Outcome State Fault Refusal :=
  let r := absOf s.cfg.fp s.cfg.arch (truncMode s) (s.reg rn)
  runFloat width s ((s.setReg rd r).setCtl .status (fabsStatus (s.ctl .status) r))

/-- FADD (R277), 16-bit form. -/
def execFadd16 (rd rn rm : RegLow) (s : State) : Host.Outcome State Fault Refusal :=
  floatArith 2 s .fadd (lowReg rd) (lowReg rn) (lowReg rm)

/-- FADD (R277), 32-bit form. -/
def execFadd32 (rd rn rm : RegIdx) (s : State) : Host.Outcome State Fault Refusal :=
  floatArith 4 s .fadd rd rn rm

/-- FSUB (R278), 16-bit form. -/
def execFsub16 (rd rn rm : RegLow) (s : State) : Host.Outcome State Fault Refusal :=
  floatArith 2 s .fsub (lowReg rd) (lowReg rn) (lowReg rm)

/-- FSUB (R278), 32-bit form. -/
def execFsub32 (rd rn rm : RegIdx) (s : State) : Host.Outcome State Fault Refusal :=
  floatArith 4 s .fsub rd rn rm

/-- FMUL (R279), 16-bit form. -/
def execFmul16 (rd rn rm : RegLow) (s : State) : Host.Outcome State Fault Refusal :=
  floatArith 2 s .fmul (lowReg rd) (lowReg rn) (lowReg rm)

/-- FMUL (R279), 32-bit form. -/
def execFmul32 (rd rn rm : RegIdx) (s : State) : Host.Outcome State Fault Refusal :=
  floatArith 4 s .fmul rd rn rm

/-- FMADD (R280), 16-bit form. -/
def execFmadd16 (rd rn rm : RegLow) (s : State) : Host.Outcome State Fault Refusal :=
  floatFma 2 s .fmadd (lowReg rd) (lowReg rn) (lowReg rm)

/-- FMADD (R280), 32-bit form. -/
def execFmadd32 (rd rn rm : RegIdx) (s : State) : Host.Outcome State Fault Refusal :=
  floatFma 4 s .fmadd rd rn rm

/-- FMSUB (R281), 16-bit form. -/
def execFmsub16 (rd rn rm : RegLow) (s : State) : Host.Outcome State Fault Refusal :=
  floatFma 2 s .fmsub (lowReg rd) (lowReg rn) (lowReg rm)

/-- FMSUB (R281), 32-bit form. -/
def execFmsub32 (rd rn rm : RegIdx) (s : State) : Host.Outcome State Fault Refusal :=
  floatFma 4 s .fmsub rd rn rm

/-- FLOAT; its `rm` field is only checked (K1) (R282), 16-bit form. -/
def execFloat16 (rd rn _rm : RegLow) (s : State) : Host.Outcome State Fault Refusal :=
  floatFromInt 2 s (lowReg rd) (lowReg rn)

/-- FLOAT; its `rm` field is only checked (K1) (R282), 32-bit form. -/
def execFloat32 (rd rn _rm : RegIdx) (s : State) : Host.Outcome State Fault Refusal :=
  floatFromInt 4 s rd rn

/-- FIX; its `rm` field is only checked (K1) (R283), 16-bit form. -/
def execFix16 (rd rn _rm : RegLow) (s : State) : Host.Outcome State Fault Refusal :=
  floatToInt 2 s (lowReg rd) (lowReg rn)

/-- FIX; its `rm` field is only checked (K1) (R283), 32-bit form. -/
def execFix32 (rd rn _rm : RegIdx) (s : State) : Host.Outcome State Fault Refusal :=
  floatToInt 4 s rd rn

/-- FABS; its `rm` field is only checked (K1) (R284), 16-bit form. -/
def execFabs16 (rd rn _rm : RegLow) (s : State) : Host.Outcome State Fault Refusal :=
  floatAbs 2 s (lowReg rd) (lowReg rn)

/-- FABS; its `rm` field is only checked (K1) (R284), 32-bit form. -/
def execFabs32 (rd rn _rm : RegIdx) (s : State) : Host.Outcome State Fault Refusal :=
  floatAbs 4 s rd rn

end Sys2Proof.Machine
end

