-- ==== Sys2Proof/Machine/IntegerAlu.lean ====
section
/-! DEFINITION. Integer arithmetic, logic, shifts and bit reverse (spec file 40_integer_alu.md, R160 to R175). -/

namespace Sys2Proof.Machine

/-- An ALU instruction on two operand words: `rd`, then the flags (R160). -/
def aluWrite (s : State) (op : AluOp) (rd : RegIdx) (a b : Word) : State :=
  (s.setReg rd (aluResult s.cfg.alu op a b)).setCtl .status (aluStatus s.cfg.alu op (s.ctl .status) a b)

/-- The register forms: both sources are read first (R25, R175). -/
def aluReg (width : Nat) (s : State) (op : AluOp) (rd rn rm : RegIdx) : Host.Outcome State Fault Refusal :=
  runNext width s (aluWrite s op rd (s.reg rn) (s.reg rm))

/-- The immediate forms. -/
def aluImm (width : Nat) (s : State) (op : AluOp) (rd rn : RegIdx) (b : Word) : Host.Outcome State Fault Refusal :=
  runNext width s (aluWrite s op rd (s.reg rn) b)

/-- BITR: the reversed word, then the flags (R174). -/
def bitrWrite (s : State) (rd : RegIdx) (a : Word) : State :=
  (s.setReg rd (bitReverse a)).setCtl .status (logicFlags s.cfg.alu (s.ctl .status) (bitReverse a))

/-- ADD (register) (R161), 16-bit form. -/
def execAdd16 (rd rn rm : RegLow) (s : State) : Host.Outcome State Fault Refusal :=
  aluReg 2 s .add (lowReg rd) (lowReg rn) (lowReg rm)

/-- ADD (register) (R161), 32-bit form. -/
def execAdd32 (rd rn rm : RegIdx) (s : State) : Host.Outcome State Fault Refusal :=
  aluReg 4 s .add rd rn rm

/-- ADD (immediate), the immediate sign-extended (R162), 16-bit form. -/
def execAddImm16 (rd rn : RegLow) (simm3 : BitVec 3) (s : State) : Host.Outcome State Fault Refusal :=
  aluImm 2 s .add (lowReg rd) (lowReg rn) (sextImm simm3)

/-- ADD (immediate), the immediate sign-extended (R162), 32-bit form. -/
def execAddImm32 (rd rn : RegIdx) (simm11 : BitVec 11) (s : State) : Host.Outcome State Fault Refusal :=
  aluImm 4 s .add rd rn (sextImm simm11)

/-- SUB (register) (R163), 16-bit form. -/
def execSub16 (rd rn rm : RegLow) (s : State) : Host.Outcome State Fault Refusal :=
  aluReg 2 s .sub (lowReg rd) (lowReg rn) (lowReg rm)

/-- SUB (register) (R163), 32-bit form. -/
def execSub32 (rd rn rm : RegIdx) (s : State) : Host.Outcome State Fault Refusal :=
  aluReg 4 s .sub rd rn rm

/-- SUB (immediate), the immediate sign-extended (R164), 16-bit form. -/
def execSubImm16 (rd rn : RegLow) (simm3 : BitVec 3) (s : State) : Host.Outcome State Fault Refusal :=
  aluImm 2 s .sub (lowReg rd) (lowReg rn) (sextImm simm3)

/-- SUB (immediate), the immediate sign-extended (R164), 32-bit form. -/
def execSubImm32 (rd rn : RegIdx) (simm11 : BitVec 11) (s : State) : Host.Outcome State Fault Refusal :=
  aluImm 4 s .sub rd rn (sextImm simm11)

/-- AND (R165), 16-bit form. -/
def execAnd16 (rd rn rm : RegLow) (s : State) : Host.Outcome State Fault Refusal :=
  aluReg 2 s .and (lowReg rd) (lowReg rn) (lowReg rm)

/-- AND (R165), 32-bit form. -/
def execAnd32 (rd rn rm : RegIdx) (s : State) : Host.Outcome State Fault Refusal :=
  aluReg 4 s .and rd rn rm

/-- ORR (R166), 16-bit form. -/
def execOrr16 (rd rn rm : RegLow) (s : State) : Host.Outcome State Fault Refusal :=
  aluReg 2 s .orr (lowReg rd) (lowReg rn) (lowReg rm)

/-- ORR (R166), 32-bit form. -/
def execOrr32 (rd rn rm : RegIdx) (s : State) : Host.Outcome State Fault Refusal :=
  aluReg 4 s .orr rd rn rm

/-- EOR (R167), 16-bit form. -/
def execEor16 (rd rn rm : RegLow) (s : State) : Host.Outcome State Fault Refusal :=
  aluReg 2 s .eor (lowReg rd) (lowReg rn) (lowReg rm)

/-- EOR (R167), 32-bit form. -/
def execEor32 (rd rn rm : RegIdx) (s : State) : Host.Outcome State Fault Refusal :=
  aluReg 4 s .eor rd rn rm

/-- LSL (register) (R168), 16-bit form. -/
def execLsl16 (rd rn rm : RegLow) (s : State) : Host.Outcome State Fault Refusal :=
  aluReg 2 s .lsl (lowReg rd) (lowReg rn) (lowReg rm)

/-- LSL (register) (R168), 32-bit form. -/
def execLsl32 (rd rn rm : RegIdx) (s : State) : Host.Outcome State Fault Refusal :=
  aluReg 4 s .lsl rd rn rm

/-- LSR (register) (R170), 16-bit form. -/
def execLsr16 (rd rn rm : RegLow) (s : State) : Host.Outcome State Fault Refusal :=
  aluReg 2 s .lsr (lowReg rd) (lowReg rn) (lowReg rm)

/-- LSR (register) (R170), 32-bit form. -/
def execLsr32 (rd rn rm : RegIdx) (s : State) : Host.Outcome State Fault Refusal :=
  aluReg 4 s .lsr rd rn rm

/-- ASR (register) (R172), 16-bit form. -/
def execAsr16 (rd rn rm : RegLow) (s : State) : Host.Outcome State Fault Refusal :=
  aluReg 2 s .asr (lowReg rd) (lowReg rn) (lowReg rm)

/-- ASR (register) (R172), 32-bit form. -/
def execAsr32 (rd rn rm : RegIdx) (s : State) : Host.Outcome State Fault Refusal :=
  aluReg 4 s .asr rd rn rm

/-- LSL (immediate) (R169), 16-bit form. -/
def execLslImm16 (rd rn : RegLow) (imm5 : BitVec 5) (s : State) : Host.Outcome State Fault Refusal :=
  aluImm 2 s .lsl (lowReg rd) (lowReg rn) (zextImm imm5)

/-- LSL (immediate) (R169), 32-bit form. -/
def execLslImm32 (rd rn : RegIdx) (imm5 : BitVec 5) (s : State) : Host.Outcome State Fault Refusal :=
  aluImm 4 s .lsl rd rn (zextImm imm5)

/-- LSR (immediate) (R171), 16-bit form. -/
def execLsrImm16 (rd rn : RegLow) (imm5 : BitVec 5) (s : State) : Host.Outcome State Fault Refusal :=
  aluImm 2 s .lsr (lowReg rd) (lowReg rn) (zextImm imm5)

/-- LSR (immediate) (R171), 32-bit form. -/
def execLsrImm32 (rd rn : RegIdx) (imm5 : BitVec 5) (s : State) : Host.Outcome State Fault Refusal :=
  aluImm 4 s .lsr rd rn (zextImm imm5)

/-- ASR (immediate) (R173), 16-bit form. -/
def execAsrImm16 (rd rn : RegLow) (imm5 : BitVec 5) (s : State) : Host.Outcome State Fault Refusal :=
  aluImm 2 s .asr (lowReg rd) (lowReg rn) (zextImm imm5)

/-- ASR (immediate) (R173), 32-bit form. -/
def execAsrImm32 (rd rn : RegIdx) (imm5 : BitVec 5) (s : State) : Host.Outcome State Fault Refusal :=
  aluImm 4 s .asr rd rn (zextImm imm5)

/-- BITR (R174), 16-bit form. -/
def execBitr16 (rd rn : RegLow) (s : State) : Host.Outcome State Fault Refusal :=
  runNext 2 s (bitrWrite s (lowReg rd) (s.reg (lowReg rn)))

/-- BITR (R174), 32-bit form. -/
def execBitr32 (rd rn : RegIdx) (s : State) : Host.Outcome State Fault Refusal :=
  runNext 4 s (bitrWrite s rd (s.reg rn))

end Sys2Proof.Machine
end

