-- ==== Sys2Proof/Machine/LoadStore.lean ====
section
/-! DEFINITION. Loads, stores and test-and-set (spec file 42_load_store.md, R220 to R237). -/

namespace Sys2Proof.Machine

/-- A load from an effective address (R222, R224). -/
def loadAt (width : Nat) (s : State) (rd : RegIdx) (ea : Word) (size : Size) : Host.Outcome State Fault Refusal :=
  runInstr width s ((loadN s ea size rd).bind fun t => .ok (.next, t))

/-- Does a postmodify load name its base register as a destination (R227, U6)? -/
def loadsBase (rd rn : RegIdx) (size : Size) : Bool := rd == rn || (size == .double && pairReg rd == rn)

/-- A load from the base, after which the base becomes `base'` (R223, R225, R227); refused where `rd` is the base. -/
def loadPost (width : Nat) (s : State) (rd rn : RegIdx) (base' : Word) (size : Size) :
    Host.Outcome State Fault Refusal :=
  if loadsBase rd rn size then .refused .postmodifyLoadIntoBase
  else runInstr width s ((loadN s (s.reg rn) size rd).bind fun t => .ok (.next, t.setReg rn base'))

/-- The second word a store moves: `x[rd + 1]` for a doubleword, else 0 (R228). -/
def storeHigh (s : State) (rd : RegIdx) (size : Size) : Word := if size = .double then s.reg (pairReg rd) else 0

/-- A store to an effective address (R228, R230). -/
def storeAt (width : Nat) (s : State) (rd : RegIdx) (ea : Word) (size : Size) : Host.Outcome State Fault Refusal :=
  runInstr width s ((storeN s ea size (s.reg rd) (storeHigh s rd size)).bind fun t => .ok (.next, t))

/-- A store to the base, after which the base becomes `base'` (R227, R229, R231). -/
def storePost (width : Nat) (s : State) (rd rn : RegIdx) (base' : Word) (size : Size) :
    Host.Outcome State Fault Refusal :=
  runInstr width s ((storeN s (s.reg rn) size (s.reg rd) (storeHigh s rd size)).bind fun t =>
    .ok (.next, t.setReg rn base'))

/-- The base plus or minus the index register, both read before any write (R25, R222). -/
def indexAddr (s : State) (rn rm : RegIdx) (sub : Bool) : Word := effAddr (s.reg rn) (s.reg rm) sub

/-- The base plus or minus the scaled displacement (R224, R226). -/
def dispAddr {n : Nat} (s : State) (rn : RegIdx) (imm : BitVec n) (size : Size) (sub : Bool) : Word :=
  effAddr (s.reg rn) (scaledDisp imm size) sub

/-- LDR (index) (R222), 16-bit form. -/
def execLdrIndex16 (rd rn rm : RegLow) (size : Size) (s : State) : Host.Outcome State Fault Refusal :=
  loadAt 2 s (lowReg rd) (indexAddr s (lowReg rn) (lowReg rm) false) size

/-- LDR (index) (R222), 32-bit form. -/
def execLdrIndex32 (rd rn rm : RegIdx) (size : Size) (sub : Bool) (s : State) : Host.Outcome State Fault Refusal :=
  loadAt 4 s rd (indexAddr s rn rm sub) size

/-- LDR (postmodify) (R223), 16-bit form. -/
def execLdrPost16 (rd rn rm : RegLow) (size : Size) (s : State) : Host.Outcome State Fault Refusal :=
  loadPost 2 s (lowReg rd) (lowReg rn) (indexAddr s (lowReg rn) (lowReg rm) false) size

/-- LDR (postmodify) (R223), 32-bit form. -/
def execLdrPost32 (rd rn rm : RegIdx) (size : Size) (sub : Bool) (s : State) : Host.Outcome State Fault Refusal :=
  loadPost 4 s rd rn (indexAddr s rn rm sub) size

/-- LDR (displacement) (R224), 16-bit form. -/
def execLdrDisp16 (rd rn : RegLow) (imm3 : BitVec 3) (size : Size) (s : State) : Host.Outcome State Fault Refusal :=
  loadAt 2 s (lowReg rd) (dispAddr s (lowReg rn) imm3 size false) size

/-- LDR (displacement) (R224), 32-bit form. -/
def execLdrDisp32 (rd rn : RegIdx) (imm11 : BitVec 11) (size : Size) (sub : Bool) (s : State) : Host.Outcome State Fault Refusal :=
  loadAt 4 s rd (dispAddr s rn imm11 size sub) size

/-- LDR (displacement-postmodify) (R225), 32-bit form. -/
def execLdrDispPost (rd rn : RegIdx) (imm11 : BitVec 11) (size : Size) (sub : Bool) (s : State) : Host.Outcome State Fault Refusal :=
  loadPost 4 s rd rn (dispAddr s rn imm11 size sub) size

/-- STR (index) (R228), 16-bit form. -/
def execStrIndex16 (rd rn rm : RegLow) (size : Size) (s : State) : Host.Outcome State Fault Refusal :=
  storeAt 2 s (lowReg rd) (indexAddr s (lowReg rn) (lowReg rm) false) size

/-- STR (index) (R228), 32-bit form. -/
def execStrIndex32 (rd rn rm : RegIdx) (size : Size) (sub : Bool) (s : State) : Host.Outcome State Fault Refusal :=
  storeAt 4 s rd (indexAddr s rn rm sub) size

/-- STR (postmodify) (R229), 16-bit form. -/
def execStrPost16 (rd rn rm : RegLow) (size : Size) (s : State) : Host.Outcome State Fault Refusal :=
  storePost 2 s (lowReg rd) (lowReg rn) (indexAddr s (lowReg rn) (lowReg rm) false) size

/-- STR (postmodify) (R229), 32-bit form. -/
def execStrPost32 (rd rn rm : RegIdx) (size : Size) (sub : Bool) (s : State) : Host.Outcome State Fault Refusal :=
  storePost 4 s rd rn (indexAddr s rn rm sub) size

/-- STR (displacement) (R230), 16-bit form. -/
def execStrDisp16 (rd rn : RegLow) (imm3 : BitVec 3) (size : Size) (s : State) : Host.Outcome State Fault Refusal :=
  storeAt 2 s (lowReg rd) (dispAddr s (lowReg rn) imm3 size false) size

/-- STR (displacement) (R230), 32-bit form. -/
def execStrDisp32 (rd rn : RegIdx) (imm11 : BitVec 11) (size : Size) (sub : Bool) (s : State) : Host.Outcome State Fault Refusal :=
  storeAt 4 s rd (dispAddr s rn imm11 size sub) size

/-- STR (displacement-postmodify) (R231), 32-bit form. -/
def execStrDispPost (rd rn : RegIdx) (imm11 : BitVec 11) (size : Size) (sub : Bool) (s : State) : Host.Outcome State Fault Refusal :=
  storePost 4 s rd rn (dispAddr s rn imm11 size sub) size

/-- TESTSET (R236), 32-bit form. -/
def execTestset (rd rn rm : RegIdx) (sub : Bool) (s : State) : Host.Outcome State Fault Refusal :=
  runInstr 4 s ((testSet s s.self (indexAddr s rn rm sub) (s.reg rd)).bind fun p => .ok (.next, p.2.setReg rd p.1))

end Sys2Proof.Machine
end

