-- ==== Sys2Proof/Machine/Move.lean ====
section
/-! DEFINITION. Immediate, conditional and control-register moves (spec file 41_move.md, R200 to R206). -/

namespace Sys2Proof.Machine

/-- MOV<cond>: the condition is evaluated on STATUS as it is now (R202). -/
def movIf (width : Nat) (s : State) (cond : Cond) (rd rn : RegIdx) : Host.Outcome State Fault Refusal :=
  runNext width s (if condHolds s.cfg (s.ctl .status) cond then s.setReg rd (s.reg rn) else s)

/-- MOVTS: a memory-mapped write of the control register, with its side effect (R203, R204). -/
def moveToCtl (width : Nat) (s : State) (group : BitVec 2) (sn : BitVec 6) (rd : RegIdx) :
    Host.Outcome State Fault Refusal :=
  runInstr width s ((memWrite s s.self (ctlAddr s.cfg.window group sn) .b4 (s.reg rd)).bind fun t => .ok (.next, t))

/-- MOVFS: a memory-mapped read of the control register (R203, R205). -/
def moveFromCtl (width : Nat) (s : State) (group : BitVec 2) (sn : BitVec 6) (rd : RegIdx) :
    Host.Outcome State Fault Refusal :=
  runInstr width s ((memRead s s.self (ctlAddr s.cfg.window group sn) .b4).bind fun v => .ok (.next, s.setReg rd v))

/-- MOV (immediate), the immediate zero-extended (R200), 16-bit form. -/
def execMovImm16 (rd : RegLow) (imm8 : BitVec 8) (s : State) : Host.Outcome State Fault Refusal :=
  runNext 2 s (s.setReg (lowReg rd) (zextImm imm8))

/-- MOV (immediate), the immediate zero-extended (R200), 32-bit form. -/
def execMovImm32 (rd : RegIdx) (imm16 : BitVec 16) (s : State) : Host.Outcome State Fault Refusal :=
  runNext 4 s (s.setReg rd (zextImm imm16))

/-- MOVT: the high half written, the low half kept (R201), 32-bit form. -/
def execMovt (rd : RegIdx) (imm16 : BitVec 16) (s : State) : Host.Outcome State Fault Refusal :=
  runNext 4 s (s.setReg rd ((zextImm imm16 <<< 16) ||| (s.reg rd &&& 0x0000FFFF#32)))

/-- MOV<cond> (R202), 16-bit form. -/
def execMovCond16 (rd rn : RegLow) (cond : Cond) (s : State) : Host.Outcome State Fault Refusal :=
  movIf 2 s cond (lowReg rd) (lowReg rn)

/-- MOV<cond> (R202), 32-bit form. -/
def execMovCond32 (rd rn : RegIdx) (cond : Cond) (s : State) : Host.Outcome State Fault Refusal :=
  movIf 4 s cond rd rn

/-- MOVTS (R204), 16-bit form. -/
def execMovts16 (rd : RegLow) (sn : BitVec 3) (s : State) : Host.Outcome State Fault Refusal :=
  moveToCtl 2 s 0 (lowReg sn) (lowReg rd)

/-- MOVTS (R204), 32-bit form. -/
def execMovts32 (rd : RegIdx) (sn : BitVec 6) (group : BitVec 2) (s : State) : Host.Outcome State Fault Refusal :=
  moveToCtl 4 s group sn rd

/-- MOVFS (R205), 16-bit form. -/
def execMovfs16 (rd : RegLow) (sn : BitVec 3) (s : State) : Host.Outcome State Fault Refusal :=
  moveFromCtl 2 s 0 (lowReg sn) (lowReg rd)

/-- MOVFS (R205), 32-bit form. -/
def execMovfs32 (rd : RegIdx) (sn : BitVec 6) (group : BitVec 2) (s : State) : Host.Outcome State Fault Refusal :=
  moveFromCtl 4 s group sn rd

end Sys2Proof.Machine
end

