-- ==== Sys2Proof/Machine/System.lean ====
section
/-! DEFINITION. System instructions (spec file 45_system.md, R300 to R314), all of 16 bits. -/

namespace Sys2Proof.Machine

/-- Do something to each core of the grid, one after another (R109). -/
def forCores (f : State → CoreId → State) : List CoreId → State → State
  | [], s => s
  | c :: cs, s => forCores f cs (f s c)

/-- MBKPT's effect on one core: its debug-halt flag is set (R305, R41). -/
def setDebugHalt (s : State) (c : CoreId) : State :=
  s.setCore c ((s.core c).setCtl .debugStatus (setBit ((s.core c).ctl .debugStatus) bitHalt true))

/-- Have all the cores of a list their STATUS.WAND set (R309)? -/
def allWand (s : State) (cs : List CoreId) : Bool := cs.all fun c => ((s.core c).ctl .status).getLsbD bitWand

/-- WAND (R309): the own flag is set; if then every core's flag is set, the wired-AND interrupt is latched on every
core. The flags stay. -/
def wandEffect (s : State) : State :=
  let t := s.setFlag bitWand true
  if allWand t (gridCores t.cfg) then forCores (fun u c => trigger u c u.cfg.irqWand none) (gridCores t.cfg) t else t

/-- RTI's effect (R310). -/
def rtiEffect (s : State) : State := s.modMe leaveInterrupt

/-- The test-outcome traps stop the core (R311). -/
def stopActive (s : State) : State := s.setFlag bitActive false

/-- Does the kernel declare the `SystemCalls` capability (R312)? -/
def hasSystemCalls : KernelCap → Bool
  | .none => false
  | .systemCalls => true
  | .debugging => false
  | .all => true

/-- The writes a kernel makes "as a host", each issued as the core it names (R312, R372): one that faults is an error
returned to the host and changes nothing; one the spec defines no effect for, or one that names a core outside the grid
(R6), is refused. -/
def kernelWrites : List KernelWrite → State → Res State
  | [], s => .ok s
  | w :: ws, s =>
    if inGrid s.cfg w.core then
      match memWrite s w.core w.addr w.size w.value with
      | .ok t => kernelWrites ws t
      | .refused r => .refused r
      | _ => kernelWrites ws s
    else .refused .argumentError

/-- The kernel's answer to a system call, a free value (R312, U17). -/
def syscallReply (s : State) : SyscallReply :=
  Config.systemCall s.fresh s.self (s.reg 0) (s.reg 1) (s.reg 2) (s.reg 3) (byteAt s)

/-- The four register values a system call gives back (R312). -/
def writeReply (s : State) (a : SyscallReply) : State :=
  (((s.setReg 0 a.b0).setReg 1 a.b1).setReg 2 a.b2).setReg 3 a.b3

/-- The system-call path of TRAP (R312): nothing without the capability. -/
def systemCall (s : State) : Res (Signal × State) :=
  if hasSystemCalls s.cfg.kernel then
    (kernelWrites (syscallReply s).writes { s with fresh := s.fresh + 1 }).bind fun t =>
      .ok (.next, writeReply t (syscallReply s))
  else .ok (.next, s)

/-- TRAP by its code (R311); the codes the spec does not define are refused (U26). -/
def trapEffect (s : State) (trapnum : BitVec 6) : Res (Signal × State) :=
  if trapnum = 3 then .ok (.next, stopActive (s.modMe fun c => { c with exitCode := s.reg 0 }))
  else if trapnum = 4 then .ok (.next, stopActive (s.modMe fun c => { c with passed := true }))
  else if trapnum = 5 then .ok (.next, stopActive (s.modMe fun c => { c with failed := true }))
  else if trapnum = 7 then systemCall s
  else .refused (.trapCode trapnum)

/-- NOP (R300), 16-bit form. -/
def execNop (s : State) : Host.Outcome State Fault Refusal :=
  runNext 2 s s

/-- IDLE: the control signal `Idle` (R301), 16-bit form. -/
def execIdle (s : State) : Host.Outcome State Fault Refusal :=
  runInstr 2 s (.ok (.idle, s))

/-- BKPT: the own debug-halt flag is set (R304), 16-bit form. -/
def execBkpt (s : State) : Host.Outcome State Fault Refusal :=
  runNext 2 s (s.setCtl .debugStatus (setBit (s.ctl .debugStatus) bitHalt true))

/-- MBKPT: the debug-halt flag of every core is set (R305), 16-bit form. -/
def execMbkpt (s : State) : Host.Outcome State Fault Refusal :=
  runNext 2 s (forCores setDebugHalt (gridCores s.cfg) s)

/-- GIE (R306), 16-bit form. -/
def execGie (s : State) : Host.Outcome State Fault Refusal :=
  runNext 2 s (s.setFlag bitGid false)

/-- GID (R307), 16-bit form. -/
def execGid (s : State) : Host.Outcome State Fault Refusal :=
  runNext 2 s (s.setFlag bitGid true)

/-- SYNC: the synchronize interrupt is latched on every core (R308), 16-bit form. -/
def execSync (s : State) : Host.Outcome State Fault Refusal :=
  runNext 2 s (forCores (fun u c => trigger u c irqSync none) (gridCores s.cfg) s)

/-- WAND (R309), 16-bit form. -/
def execWand (s : State) : Host.Outcome State Fault Refusal :=
  runNext 2 s (wandEffect s)

/-- RTI (R310), 16-bit form. -/
def execRti (s : State) : Host.Outcome State Fault Refusal :=
  runInstr 2 s (.ok (.none, rtiEffect s))

/-- TRAP (R311), 16-bit form. -/
def execTrap (trapnum : BitVec 6) (s : State) : Host.Outcome State Fault Refusal :=
  runInstr 2 s (trapEffect s trapnum)

/-- SWI: the user interrupt with cause SoftwareInterrupt; the number is ignored (R313), 16-bit form. -/
def execSwi (_num : BitVec 6) (s : State) : Host.Outcome State Fault Refusal :=
  runNext 2 s (trigger s s.self irqUser (some .softwareInterrupt))

end Sys2Proof.Machine
end

