-- ==== Sys2Proof/Machine/Dispatch.lean ====
section
/-! DEFINITION. The dispatch of execute: one arm per constructor of Instr, each one call of its meaning. -/

namespace Sys2Proof.Machine

def exec (i : Instr) (s : State) : Host.Outcome State Fault Refusal :=
  match i with
  | .bcond16 simm8 cond => Sys2Proof.Machine.execBcond16 simm8 cond s
  | .bcond32 simm24 cond => Sys2Proof.Machine.execBcond32 simm24 cond s
  | .ldrIndex16 rd rn rm size => Sys2Proof.Machine.execLdrIndex16 rd rn rm size s
  | .ldrIndex32 rd rn rm size sub => Sys2Proof.Machine.execLdrIndex32 rd rn rm size sub s
  | .ldrPost16 rd rn rm size => Sys2Proof.Machine.execLdrPost16 rd rn rm size s
  | .ldrPost32 rd rn rm size sub => Sys2Proof.Machine.execLdrPost32 rd rn rm size sub s
  | .ldrDisp16 rd rn imm3 size => Sys2Proof.Machine.execLdrDisp16 rd rn imm3 size s
  | .ldrDisp32 rd rn imm11 size sub => Sys2Proof.Machine.execLdrDisp32 rd rn imm11 size sub s
  | .ldrDispPost rd rn imm11 size sub => Sys2Proof.Machine.execLdrDispPost rd rn imm11 size sub s
  | .strIndex16 rd rn rm size => Sys2Proof.Machine.execStrIndex16 rd rn rm size s
  | .strIndex32 rd rn rm size sub => Sys2Proof.Machine.execStrIndex32 rd rn rm size sub s
  | .strPost16 rd rn rm size => Sys2Proof.Machine.execStrPost16 rd rn rm size s
  | .strPost32 rd rn rm size sub => Sys2Proof.Machine.execStrPost32 rd rn rm size sub s
  | .strDisp16 rd rn imm3 size => Sys2Proof.Machine.execStrDisp16 rd rn imm3 size s
  | .strDisp32 rd rn imm11 size sub => Sys2Proof.Machine.execStrDisp32 rd rn imm11 size sub s
  | .strDispPost rd rn imm11 size sub => Sys2Proof.Machine.execStrDispPost rd rn imm11 size sub s
  | .testset rd rn rm sub => Sys2Proof.Machine.execTestset rd rn rm sub s
  | .movImm16 rd imm8 => Sys2Proof.Machine.execMovImm16 rd imm8 s
  | .movImm32 rd imm16 => Sys2Proof.Machine.execMovImm32 rd imm16 s
  | .movt rd imm16 => Sys2Proof.Machine.execMovt rd imm16 s
  | .addImm16 rd rn simm3 => Sys2Proof.Machine.execAddImm16 rd rn simm3 s
  | .addImm32 rd rn simm11 => Sys2Proof.Machine.execAddImm32 rd rn simm11 s
  | .subImm16 rd rn simm3 => Sys2Proof.Machine.execSubImm16 rd rn simm3 s
  | .subImm32 rd rn simm11 => Sys2Proof.Machine.execSubImm32 rd rn simm11 s
  | .eor16 rd rn rm => Sys2Proof.Machine.execEor16 rd rn rm s
  | .eor32 rd rn rm => Sys2Proof.Machine.execEor32 rd rn rm s
  | .add16 rd rn rm => Sys2Proof.Machine.execAdd16 rd rn rm s
  | .add32 rd rn rm => Sys2Proof.Machine.execAdd32 rd rn rm s
  | .lsl16 rd rn rm => Sys2Proof.Machine.execLsl16 rd rn rm s
  | .lsl32 rd rn rm => Sys2Proof.Machine.execLsl32 rd rn rm s
  | .sub16 rd rn rm => Sys2Proof.Machine.execSub16 rd rn rm s
  | .sub32 rd rn rm => Sys2Proof.Machine.execSub32 rd rn rm s
  | .lsr16 rd rn rm => Sys2Proof.Machine.execLsr16 rd rn rm s
  | .lsr32 rd rn rm => Sys2Proof.Machine.execLsr32 rd rn rm s
  | .and16 rd rn rm => Sys2Proof.Machine.execAnd16 rd rn rm s
  | .and32 rd rn rm => Sys2Proof.Machine.execAnd32 rd rn rm s
  | .asr16 rd rn rm => Sys2Proof.Machine.execAsr16 rd rn rm s
  | .asr32 rd rn rm => Sys2Proof.Machine.execAsr32 rd rn rm s
  | .orr16 rd rn rm => Sys2Proof.Machine.execOrr16 rd rn rm s
  | .orr32 rd rn rm => Sys2Proof.Machine.execOrr32 rd rn rm s
  | .lsrImm16 rd rn imm5 => Sys2Proof.Machine.execLsrImm16 rd rn imm5 s
  | .lsrImm32 rd rn imm5 => Sys2Proof.Machine.execLsrImm32 rd rn imm5 s
  | .lslImm16 rd rn imm5 => Sys2Proof.Machine.execLslImm16 rd rn imm5 s
  | .lslImm32 rd rn imm5 => Sys2Proof.Machine.execLslImm32 rd rn imm5 s
  | .asrImm16 rd rn imm5 => Sys2Proof.Machine.execAsrImm16 rd rn imm5 s
  | .asrImm32 rd rn imm5 => Sys2Proof.Machine.execAsrImm32 rd rn imm5 s
  | .bitr16 rd rn => Sys2Proof.Machine.execBitr16 rd rn s
  | .bitr32 rd rn => Sys2Proof.Machine.execBitr32 rd rn s
  | .fadd16 rd rn rm => Sys2Proof.Machine.execFadd16 rd rn rm s
  | .fadd32 rd rn rm => Sys2Proof.Machine.execFadd32 rd rn rm s
  | .fsub16 rd rn rm => Sys2Proof.Machine.execFsub16 rd rn rm s
  | .fsub32 rd rn rm => Sys2Proof.Machine.execFsub32 rd rn rm s
  | .fmul16 rd rn rm => Sys2Proof.Machine.execFmul16 rd rn rm s
  | .fmul32 rd rn rm => Sys2Proof.Machine.execFmul32 rd rn rm s
  | .fmadd16 rd rn rm => Sys2Proof.Machine.execFmadd16 rd rn rm s
  | .fmadd32 rd rn rm => Sys2Proof.Machine.execFmadd32 rd rn rm s
  | .fmsub16 rd rn rm => Sys2Proof.Machine.execFmsub16 rd rn rm s
  | .fmsub32 rd rn rm => Sys2Proof.Machine.execFmsub32 rd rn rm s
  | .float16 rd rn rm => Sys2Proof.Machine.execFloat16 rd rn rm s
  | .float32 rd rn rm => Sys2Proof.Machine.execFloat32 rd rn rm s
  | .fix16 rd rn rm => Sys2Proof.Machine.execFix16 rd rn rm s
  | .fix32 rd rn rm => Sys2Proof.Machine.execFix32 rd rn rm s
  | .fabs16 rd rn rm => Sys2Proof.Machine.execFabs16 rd rn rm s
  | .fabs32 rd rn rm => Sys2Proof.Machine.execFabs32 rd rn rm s
  | .movCond16 rd rn cond => Sys2Proof.Machine.execMovCond16 rd rn cond s
  | .movCond32 rd rn cond => Sys2Proof.Machine.execMovCond32 rd rn cond s
  | .movts16 rd sn => Sys2Proof.Machine.execMovts16 rd sn s
  | .movts32 rd sn group => Sys2Proof.Machine.execMovts32 rd sn group s
  | .movfs16 rd sn => Sys2Proof.Machine.execMovfs16 rd sn s
  | .movfs32 rd sn group => Sys2Proof.Machine.execMovfs32 rd sn group s
  | .jr16 rn => Sys2Proof.Machine.execJr16 rn s
  | .jr32 rn => Sys2Proof.Machine.execJr32 rn s
  | .jalr16 rn => Sys2Proof.Machine.execJalr16 rn s
  | .jalr32 rn => Sys2Proof.Machine.execJalr32 rn s
  | .wand => Sys2Proof.Machine.execWand s
  | .gie => Sys2Proof.Machine.execGie s
  | .nop => Sys2Proof.Machine.execNop s
  | .idle => Sys2Proof.Machine.execIdle s
  | .bkpt => Sys2Proof.Machine.execBkpt s
  | .rti => Sys2Proof.Machine.execRti s
  | .sync => Sys2Proof.Machine.execSync s
  | .gid => Sys2Proof.Machine.execGid s
  | .mbkpt => Sys2Proof.Machine.execMbkpt s
  | .swi num => Sys2Proof.Machine.execSwi num s
  | .trap trapnum => Sys2Proof.Machine.execTrap trapnum s

end Sys2Proof.Machine
end

