-- ==== Sys2Proof/Machine/Extension.lean ====
section
/-! DEFINITION. Extension instructions (R145, R372): their execute, by the acts that the free value
`Config.extExecute` gives, and the host's registering and removing of their decoders before the run. -/

namespace Sys2Proof.Machine

/-- One act of an extension instruction (R145, R9). A trigger of a core outside the grid or with a wrong cause pairing
is malformed (R6, R344). -/
def extAct (s : State) : ExtAct → Res State
  | .setWord k v => .ok (s.modMe fun c => c.setWord k.toNat v)
  | .read addr size => (memRead s s.self addr size).bind fun _ => .ok s
  | .write addr size v => memWrite s s.self addr size v
  | .trigger c irq cause =>
    if inGrid s.cfg c && pairingOk irq cause then .ok (trigger s c irq cause) else .refused .argumentError

/-- The acts of an extension instruction, in order, up to the first that raises. -/
def extActs : List ExtAct → State → Res State
  | [], s => .ok s
  | a :: as, s => (extAct s a).bind (extActs as)

/-- What the execute of an extension instruction comes to in a state, a free value (R145, U4). -/
def extReply (s : State) (e : ExtInstr) : ExtReply := Config.extExecute s.fresh e.op e.word s.self (byteAt s)

/-- An extension instruction with a given execute (R145): its acts, then its control signal; a raised condition ends it
as it ends any instruction. -/
def runExt (e : ExtInstr) (r : ExtReply) (s : State) : Host.Outcome State Fault Refusal :=
  runInstr e.width s ((extActs r.acts s).bind fun t => .ok (r.signal, t))

/-- EXECUTE of an extension instruction (R145); each uses up one free value. -/
def execExt (e : ExtInstr) (s : State) : Host.Outcome State Fault Refusal :=
  runExt e (extReply s e) { s with fresh := s.fresh + 1 }

/-! ## Registering and removing a decoder (R145, R372): operations of the host, before the run -/

/-- The machine with other decode parameters. -/
def State.withDecode (s : State) (f : DecodeConfig → DecodeConfig) : State :=
  { s with cfg := { s.cfg with decode := f s.cfg.decode } }

/-- Register an extension decoder of 16-bit or of 32-bit words, tried after those there are (DESIGN CHOICE, log entry
25). -/
def State.registerExt16 (s : State) (x : ExtDecoder 16) : State := s.withDecode fun d => d.register16 x
def State.registerExt32 (s : State) (x : ExtDecoder 32) : State := s.withDecode fun d => d.register32 x

/-- Remove the extension decoder at a place in the order (DESIGN CHOICE, log entry 25). -/
def State.removeExt16 (s : State) (i : Nat) : State := s.withDecode fun d => d.remove16 i
def State.removeExt32 (s : State) (i : Nat) : State := s.withDecode fun d => d.remove32 i

/-- Remove every extension decoder. -/
def State.clearExt (s : State) : State := s.withDecode DecodeConfig.clearExt

end Sys2Proof.Machine
end

