-- ==== Sys2Proof/Machine/Tick.lean ====
section
/-! DEFINITION. The core tick up to execute (R355 to R360), the acts of the other agents (R371 to R373), and how a
word is put where the next tick fetches it. -/

namespace Sys2Proof.Machine

/-- What a step comes to before execute: it ends, or it runs an instruction that decoded and passed its check. -/
inductive Front where
  | done (s : State)
  | run (i : Instr) (s : State)
  | runExt (e : ExtInstr) (s : State)
  | refuse (r : Refusal)
  | stop (f : Fault)

/-- A halfword of a read. -/
def lowHalf (v : Word) : Half := v.setWidth 16

/-- Fetch and decode at `pc` (R82, R121, R359): 16 bits, then, where `Decode16` does not match, the next 16. -/
def fetch (s : State) : Res (Option Found) :=
  (memRead s s.self s.pc .b2).bind fun h0 =>
    match decode16 s.cfg.decode (lowHalf h0) with
    | some i => .ok (some i)
    | none =>
      (memRead s s.self (s.pc + 2) .b2).bind fun h1 =>
        .ok (decode32 s.cfg.decode (joinHalves (lowHalf h0) (lowHalf h1)))

/-- Steps (i) and (j) of the tick (R355): a fault of the fetch, no match, and a failed check each halt the core. -/
def frontDecode (s : State) : Front :=
  match fetch s with
  | .ok (some (.table i)) => if i.check then .run i s else .done (halt s .invalidEncoding)
  | .ok (some (.ext e)) => if e.valid then .runExt e s else .done (halt s .invalidEncoding)
  | .ok none => .done (halt s .invalidInstruction)
  | .memoryFault addr w t => .done (halt t (.invalidMemoryAccess addr w))
  | .misaligned _ => .done (halt s .invalidProgramCounter)
  | .refused r => .refuse r

/-- A tick of the executing core up to execute, steps (c) to (j) (R355): interrupt delivery, idle, debug halt, ACTIVE,
the program counter check, fetch, decode, check. Steps (a), (b) and (l) change nothing (R364, R367). -/
def tick (s : State) : Front :=
  match update s with
  | some t => .done t
  | none =>
    if s.me.idle then .done s
    else if (s.ctl .debugStatus).getLsbD bitHalt then .done (s.setFlag bitActive false)
    else if !s.flag bitActive then .done s
    else if s.pc.getLsbD 0 then .done (halt s .invalidProgramCounter)
    else frontDecode s

/-- A write by the host or a DMA engine, issued as core `c` (R371, R372): a fault is an error returned to that agent
and changes nothing. -/
def agentWrite (s : State) (c : CoreId) (addr : Word) (size : Access) (v : Word) : Front :=
  match memWrite s c addr size v with
  | .ok t => .done t
  | .refused r => .refuse r
  | _ => .done s

/-- An act of one agent (R371 to R373); a core outside the grid or a wrong cause pairing is malformed (R6, R344). -/
def act (s : State) : Event → Front
  | .turn c => if inGrid s.cfg c then tick { s with self := c } else .refuse .argumentError
  | .hostWrite c addr size v => if inGrid s.cfg c then agentWrite s c addr size v else .refuse .argumentError
  | .hostTrigger c irq cause =>
    if inGrid s.cfg c && pairingOk irq cause then .done (trigger s c irq cause) else .refuse .argumentError
  | .hostHalt => .done { s with halting := true }
  | .dmaWrite c addr size v => if inGrid s.cfg c then agentWrite s c addr size v else .refuse .argumentError
  | .dmaTrigger c ch1 =>
    if inGrid s.cfg c then .done (trigger s c (if ch1 then s.cfg.irqDma1 else s.cfg.irqDma0) none)
    else .refuse .argumentError

/-- The step up to execute: nothing once the run is ended (R373); else the first act of the agenda, or, with an empty
agenda, a tick of the executing core. -/
def beginStep (s : State) : Front :=
  if s.halting then .stop .runEnded
  else
    match s.agenda with
    | [] => tick s
    | e :: rest => act { s with agenda := rest } e

/-! ## Placing a word where the next tick fetches -/

/-- Can four bytes of plain memory at `pc` be fetched as an instruction? -/
def fetchable (s : State) : Bool :=
  aligned s.pc 2 &&
    match translate s.cfg s.self s.pc with
    | .external off => decide (off + 4 ≤ s.cfg.extSize)
    | .core _ off =>
      !inWindow s.cfg.window off && !inWindow s.cfg.window (off + 2) && decide (off + 4 ≤ localSize) &&
        !reserved s.cfg (off + 2)
    | .invalid => false

/-- Store the four bytes of a word at `pc`. -/
def placeAtPc (s : State) (w : Word) : State :=
  match translate s.cfg s.self s.pc with
  | .external off => { s with ext := writeBytes s.ext off w .b4 }
  | .core c off => s.setCore c { s.core c with mem := writeBytes (s.core c).mem off w .b4 }
  | .invalid => s

/-- The executing core made to run: as the host starts it (R396), not idle, not in debug halt, and with nothing
deliverable. -/
def wakeCore (x : ECore) : ECore :=
  let y := x.setCtl .status (setBit (x.ctl .status) bitActive true)
  let z := y.setCtl .debugStatus (setBit (y.ctl .debugStatus) bitHalt false)
  { (if (deliverable z).isSome then z.setCtl .ilat 0 else z) with idle := false }

/-- The state whose next step is a tick that fetches at a fetchable `pc`. -/
def readyToFetch (s : State) : State :=
  let t := { s with halting := false, agenda := [] }.modMe wakeCore
  if fetchable t then t else t.setPc 0

end Sys2Proof.Machine
end

