-- ==== Sys2Proof/Machine/Step.lean ====
section
/-! DEFINITION. One step of the machine: one act of one agent (R21, R355, R375). -/

namespace Sys2Proof.Machine

/-- One step: `beginStep`, and execute of the instruction it gives, if any. -/
def step (s : State) : Host.Outcome State Fault Refusal :=
  match beginStep s with
  | .done t => .next t
  | .run i t => exec i t
  | .runExt e t => execExt e t
  | .refuse r => .refused r
  | .stop f => .fault f

/-- The state with an instruction's bits stored where the next step fetches it, and that step made to fetch (log
entry 7). -/
def State.withFetchWord (s : State) (nbits w : Nat) : State := placeAtPc (readyToFetch s) (tableWord nbits w)

end Sys2Proof.Machine
end

