-- ==== Sys2Proof/Safety.lean ====
section
/-! DEFINITION. The words the statements use: one byte of memory, what an instruction leaves unchanged, how it
completes, how it ends in a fault or a latched interrupt, the constraints on a configuration, and the invariant of the
state. -/

namespace Sys2Proof.Machine

/-! ## Reading the state -/

/-- One byte of the machine's memory, the register windows included (R20, R62). -/
def State.byteOf (s : State) : Target → Byte
  | .external off => mapGet 0 s.ext off
  | .core c off => (s.core c).byte s.cfg.window off
  | .invalid => 0

/-- Is the byte one of the executing core's own register window? -/
def ownWindow (w : RegWindow) (self : CoreId) : Target → Bool
  | .core c off => c == self && inWindow w off
  | _ => false

/-- The target some bytes on. -/
def Target.plus : Target → Nat → Target
  | .external off, n => .external (off + n)
  | .core c off, n => .core c (off + n)
  | .invalid, _ => .invalid

/-- Is the target ordinary memory: external, or local outside every register window? -/
def Target.plain (g : Target) (w : RegWindow) : Bool :=
  match g with
  | .external _ => true
  | .core _ off => !inWindow w off
  | .invalid => false

/-! ## Frames -/

/-- `t` differs from `s` at most in the words `ks` of the executing core's register window, in that core's idle flag,
test outcomes and notifications, and in the count of free values used: every byte of memory outside that window, every
other core and the rest of the machine are the same. -/
structure Frame (s t : State) (ks : List Nat) : Prop where
  words : ∀ k, k ∉ ks → t.me.word k = s.me.word k
  bytes : ∀ g, ownWindow s.cfg.window s.self g = false → t.byteOf g = s.byteOf g
  others : ∀ c, c ≠ s.self → t.core c = s.core c
  cfg : t.cfg = s.cfg
  halting : t.halting = s.halting
  self : t.self = s.self
  agenda : t.agenda = s.agenda

/-- The idle flag and the test-outcome values of the executing core are the same (R55, R56). -/
structure SameOutcome (s t : State) : Prop where
  idle : t.me.idle = s.me.idle
  passed : t.me.passed = s.me.passed
  failed : t.me.failed = s.me.failed
  exitCode : t.me.exitCode = s.me.exitCode

/-- Does the hardware loop take the instruction at `pc` back to its start (R362), for an instruction that writes none
of LC, LE, LS? -/
def atLoopEnd (s : State) : Prop := s.pc = s.ctl .le ∧ s.ctl .lc ≠ 0

/-- The program counter and the loop counter at the end of an instruction that writes none of LC, LE, LS, `pcx` being
where its control signal sends it (R361, R362). -/
structure Advanced (s t : State) (pcx : Word) : Prop where
  loop : atLoopEnd s → t.pc = s.ctl .ls ∧ t.ctl .lc = s.ctl .lc - 1
  straight : ¬ atLoopEnd s → t.pc = pcx ∧ t.ctl .lc = s.ctl .lc

/-- An instruction completed (R363): `pc` and LC as `Advanced` says, "valid instruction executed" emitted, and nothing
else changed but the words `ks` of the executing core's window. -/
structure Completed (s t : State) (pcx : Word) (ks : List Nat) : Prop where
  advanced : Advanced s t pcx
  notes : t.me.notes = .validInstruction :: s.me.notes
  frame : Frame s t (Ctl.index .pc :: Ctl.index .lc :: ks)
  outcome : SameOutcome s t

/-- The core halted on a fault (R336): ACTIVE is clear, the notification emitted, nothing else changed. -/
structure Halted (s t : State) (n : Note) : Prop where
  active : t.flag bitActive = false
  status : ∀ b, b ≠ bitActive → t.flag b = s.flag b
  notes : t.me.notes = n :: s.me.notes
  frame : Frame s t [Ctl.index .status]
  outcome : SameOutcome s t

/-- The bits of STATUS are those of `st`, but for the cause field, which holds the code of `cause` (R345). -/
def CauseWritten (cfg : Config) (st st' : Word) (cause : Cause) : Prop :=
  ∀ b, st'.getLsbD b =
    if 16 ≤ b ∧ b < 16 + excauseBits cfg.arch then (causeCode cfg.causes cause).getLsbD (b - 16) else st.getLsbD b

/-- The latch word is `il` with bit `i` set (R343). -/
def LatchSet (il il' : Word) (i : Nat) : Prop := ∀ b, il'.getLsbD b = (b == i || il.getLsbD b)

/-- An instruction abandoned for a misaligned access (R333): the software exception is latched with the cause
UnalignedAccess, no register or byte of memory is written, and the core goes on after the instruction. -/
structure Abandoned (s t : State) (width : Nat) : Prop where
  latch : LatchSet (s.ctl .ilat) (t.ctl .ilat) 1
  cause : CauseWritten s.cfg (s.ctl .status) (t.ctl .status) .unalignedAccess
  completed : Completed s t (s.pc + BitVec.ofNat 32 width) [Ctl.index .ilat, Ctl.index .status]

/-- The outcome is the next state `t` of a property. -/
def Next (o : Host.Outcome State Fault Refusal) (p : State → Prop) : Prop := ∃ t, o = .next t ∧ p t

/-- Like `Frame` for an instruction that stores to memory outside every register window: the bytes of `run` may change,
on whatever core or in external memory they lie. -/
structure StoreFrame (s t : State) (ks : List Nat) (run : Target → Prop) : Prop where
  words : ∀ k, k ∉ ks → t.me.word k = s.me.word k
  bytes : ∀ g, ownWindow s.cfg.window s.self g = false → ¬ run g → t.byteOf g = s.byteOf g
  windows : ∀ c, c ≠ s.self → ∀ k, (t.core c).word k = (s.core c).word k
  others : ∀ c, c ≠ s.self → (t.core c).idle = (s.core c).idle ∧ (t.core c).passed = (s.core c).passed ∧
    (t.core c).failed = (s.core c).failed ∧ (t.core c).exitCode = (s.core c).exitCode ∧
    (t.core c).notes = (s.core c).notes
  cfg : t.cfg = s.cfg
  halting : t.halting = s.halting
  self : t.self = s.self
  agenda : t.agenda = s.agenda

/-- Like `Completed` for an instruction that stores to memory outside every register window. -/
structure CompletedStore (s t : State) (pcx : Word) (ks : List Nat) (run : Target → Prop) : Prop where
  advanced : Advanced s t pcx
  notes : t.me.notes = .validInstruction :: s.me.notes
  frame : StoreFrame s t (Ctl.index .pc :: Ctl.index .lc :: ks) run
  outcome : SameOutcome s t

/-- A completed instruction that acts on every core (R109): of each core's window only the registers `rs` may have
changed, of the executing core also PC and LC; all memory outside the windows and every core's idle flag and outcomes
are the same. -/
structure Broadcast (s t : State) (pcx : Word) (rs : List Ctl) : Prop where
  words : ∀ c k, (∀ r ∈ rs, k ≠ r.index) → ¬(c = s.self ∧ (k = Ctl.index .pc ∨ k = Ctl.index .lc)) →
    (t.core c).word k = (s.core c).word k
  bytes : ∀ g, (∀ c off, g = .core c off → inWindow s.cfg.window off = false) → t.byteOf g = s.byteOf g
  cores : ∀ c, (t.core c).idle = (s.core c).idle ∧ (t.core c).passed = (s.core c).passed ∧
    (t.core c).failed = (s.core c).failed ∧ (t.core c).exitCode = (s.core c).exitCode
  otherNotes : ∀ c, c ≠ s.self → (t.core c).notes = (s.core c).notes
  notes : t.me.notes = .validInstruction :: s.me.notes
  advanced : Advanced s t pcx
  cfg : t.cfg = s.cfg
  halting : t.halting = s.halting
  self : t.self = s.self
  agenda : t.agenda = s.agenda

/-! ## Interrupts -/

/-- Level `i` of a core is latched and unmasked, and no level of the same or a higher priority is pending (R346). -/
def Ready (x : ECore) (i : Nat) : Prop :=
  i < 9 ∧ (x.ctl .ilat).getLsbD i = true ∧ (x.ctl .imask).getLsbD i = false ∧
    ∀ j, j ≤ i → (x.ctl .ipend).getLsbD j = false

/-- No interrupt of the core can be delivered: interrupts are disabled, or no level is ready (R346). -/
def Quiet (x : ECore) : Prop := (x.ctl .status).getLsbD bitGid = true ∨ ∀ i, ¬ Ready x i

/-- The core `y` is `x` after the entry of interrupt `i` (R346, R350). -/
structure Entered (cfg : Config) (x y : ECore) (i : Nat) : Prop where
  iret : y.ctl .iret = x.ctl .pc
  pc : y.ctl .pc = cfg.vectorBase + BitVec.ofNat 32 (4 * i)
  ilat : ∀ b, (y.ctl .ilat).getLsbD b = (b != i && (x.ctl .ilat).getLsbD b)
  ipend : ∀ b, (y.ctl .ipend).getLsbD b = (b == i || (x.ctl .ipend).getLsbD b)
  gid : (y.ctl .status).getLsbD bitGid = true
  kernel : (y.ctl .status).getLsbD bitKernel = ((x.ctl .status).getLsbD bitKernel || entersKernel cfg x)
  status : ∀ b, b ≠ bitGid → b ≠ bitKernel → (y.ctl .status).getLsbD b = (x.ctl .status).getLsbD b
  words : ∀ k, k ∉ [Ctl.index .iret, Ctl.index .pc, Ctl.index .ilat, Ctl.index .ipend, Ctl.index .status] →
    y.word k = x.word k
  mem : y.mem = x.mem
  idle : y.idle = false
  outcome : y.passed = x.passed ∧ y.failed = x.failed ∧ y.exitCode = x.exitCode ∧ y.notes = x.notes

/-- The next step is a tick of the executing core that reaches the fetch: the run is not over, no other agent is to
act, no interrupt is deliverable, and the core is running (R355, R356) at an even program counter. -/
structure Running (s : State) : Prop where
  going : s.halting = false
  agenda : s.agenda = []
  quiet : Quiet s.me
  awake : s.me.idle = false
  debug : (s.ctl .debugStatus).getLsbD bitHalt = false
  active : s.flag bitActive = true
  even : s.pc.getLsbD 0 = false

/-- The two bytes at an address, as the executing core reads them, are the halfword `h` (R82, R86). -/
def HalfAt (s : State) (a : Word) (h : Half) : Prop := ∃ v, memRead s s.self a .b2 = .ok v ∧ lowHalf v = h

/-- The next step is an act of core `c`'s own tick. -/
def TicksNext (s : State) (c : CoreId) : Prop :=
  (s.agenda = [] ∧ s.self = c) ∨ ∃ rest, s.agenda = .turn c :: rest

/-- The next step runs instruction `i` on core `c`. -/
def RunsNext (s : State) (c : CoreId) (i : Instr) : Prop := ∃ s', beginStep s = .run i s' ∧ s'.self = c

/-- The next step runs an extension instruction that returns `Idle` on core `c` (R145). -/
def RunsExtIdle (s : State) (c : CoreId) : Prop :=
  ∃ e s', beginStep s = .runExt e s' ∧ s'.self = c ∧ (extReply s' e).signal = .idle

/-- An outcome with its next state changed. -/
def mapNext (f : State → State) : Host.Outcome State Fault Refusal → Host.Outcome State Fault Refusal
  | .next t => .next (f t)
  | .fault x => .fault x
  | .refused r => .refused r

/-! ## Flags -/

/-- The integer flags as written for a result `r` with carry `c` and overflow `v`, the sticky bit `avs`, and every
other bit of STATUS unchanged (R160). -/
structure IntFlagsWritten (s t : State) (r : Word) (c v avs : Bool) : Prop where
  az : t.flag bitAZ = decide (r = 0)
  an : t.flag bitAN = r.getLsbD 31
  ac : t.flag bitAC = c
  av : t.flag bitAV = v
  sticky : t.flag bitAVS = avs
  rest : ∀ b, b ∉ [bitAZ, bitAN, bitAC, bitAV, bitAVS] → t.flag b = s.flag b

/-- An integer instruction completed with result `r` in `rd` and the flags of R160. -/
def IntDone (s : State) (o : Host.Outcome State Fault Refusal) (width : Nat) (rd : RegIdx) (r : Word)
    (c v avs : Bool) : Prop :=
  Next o fun t => t.reg rd = r ∧ IntFlagsWritten s t r c v avs ∧
    Completed s t (s.pc + BitVec.ofNat 32 width) [rd.toNat, Ctl.index .status]

/-- The addition of two words, completed as R161 says. -/
def AddDone (s : State) (o : Host.Outcome State Fault Refusal) (width : Nat) (rd : RegIdx) (a b : Word) : Prop :=
  let r := BitVec.ofNat 32 (a.toNat + b.toNat)
  let av := a.getLsbD 31 == b.getLsbD 31 && r.getLsbD 31 != a.getLsbD 31
  IntDone s o width rd r (decide (2 ^ 32 ≤ a.toNat + b.toNat)) av (s.flag bitAVS || av)

/-- The subtraction of two words, completed as R163 says. -/
def SubDone (s : State) (o : Host.Outcome State Fault Refusal) (width : Nat) (rd : RegIdx) (a b : Word) : Prop :=
  let r := BitVec.ofInt 32 ((a.toNat : Int) - b.toNat)
  let av := a.getLsbD 31 != b.getLsbD 31 && r.getLsbD 31 != a.getLsbD 31
  IntDone s o width rd r (decide (b.toNat ≤ a.toNat)) av (s.flag bitAVS || av)

/-- A logic or shift instruction with result `r`, completed as R165 to R173 say: AC and AV cleared, AVS kept. -/
def LogicDone (s : State) (o : Host.Outcome State Fault Refusal) (width : Nat) (rd : RegIdx) (r : Word) : Prop :=
  IntDone s o width rd r false false (s.flag bitAVS)

/-- A float instruction completed with result `r` in `rd`, the float flags as given (R274), and, exactly if `raised`,
the software exception latched with the cause FloatingPoint (R276). -/
structure FloatDone (s t : State) (width : Nat) (rd : RegIdx) (r : Word) (z n v bis bvs bus raised : Bool) : Prop where
  result : t.reg rd = r
  bz : t.flag bitBZ = z
  bn : t.flag bitBN = n
  bv : t.flag bitBV = v
  bis : t.flag bitBIS = bis
  bvs : t.flag bitBVS = bvs
  bus : t.flag bitBUS = bus
  rest : ∀ b, b ∉ [bitBZ, bitBN, bitBV, bitBIS, bitBVS, bitBUS] →
    ¬(raised = true ∧ 16 ≤ b ∧ b < 16 + excauseBits s.cfg.arch) → t.flag b = s.flag b
  cause : raised = true → ∀ b, b < excauseBits s.cfg.arch →
    t.flag (16 + b) = s.cfg.causes.floatingPoint.getLsbD b
  latch : ∀ b, (t.ctl .ilat).getLsbD b = ((raised && b == 1) || (s.ctl .ilat).getLsbD b)
  completed : Completed s t (s.pc + BitVec.ofNat 32 width) [rd.toNat, Ctl.index .status, Ctl.index .ilat]

/-- An arithmetic float instruction completed with a result and its events (R274, R276). -/
def FloatArithDone (s : State) (o : Host.Outcome State Fault Refusal) (width : Nat) (rd : RegIdx) (r : FpResult) :
    Prop :=
  Next o fun t => FloatDone s t width rd r.word (decide (r.word.extractLsb' 0 31 = 0)) (r.word.getLsbD 31) r.overflow
    (s.flag bitBIS || r.invalid) (s.flag bitBVS || r.overflow) (s.flag bitBUS || r.underflow)
    ((r.invalid && (s.ctl .config).getLsbD bitIen) || (r.overflow && (s.ctl .config).getLsbD bitOen) ||
      (r.underflow && (s.ctl .config).getLsbD bitUen))

/-- CONFIG.ARITHMODE, bits 19:17 (R271). -/
def arithMode (s : State) : BitVec 3 := (s.ctl .config).extractLsb' 17 3

/-! ## Loads and stores -/

/-- A load or store form in a state: its encoding's width, the data register, the size, the address it accesses, and,
for a postmodify form, the base register with the value it is to receive (R222 to R231). -/
structure Transfer where
  width : Nat
  rd : RegIdx
  size : Size
  ea : Word
  base : Option (RegIdx × Word)

/-- The seven loads (R222 to R225). -/
def loadForm (s : State) : Instr → Option Transfer
  | .ldrIndex16 rd rn rm size => some ⟨2, lowReg rd, size, indexAddr s (lowReg rn) (lowReg rm) false, none⟩
  | .ldrIndex32 rd rn rm size sub => some ⟨4, rd, size, indexAddr s rn rm sub, none⟩
  | .ldrDisp16 rd rn imm3 size => some ⟨2, lowReg rd, size, dispAddr s (lowReg rn) imm3 size false, none⟩
  | .ldrDisp32 rd rn imm11 size sub => some ⟨4, rd, size, dispAddr s rn imm11 size sub, none⟩
  | .ldrPost16 rd rn rm size =>
    some ⟨2, lowReg rd, size, s.reg (lowReg rn), some (lowReg rn, indexAddr s (lowReg rn) (lowReg rm) false)⟩
  | .ldrPost32 rd rn rm size sub => some ⟨4, rd, size, s.reg rn, some (rn, indexAddr s rn rm sub)⟩
  | .ldrDispPost rd rn imm11 size sub => some ⟨4, rd, size, s.reg rn, some (rn, dispAddr s rn imm11 size sub)⟩
  | _ => none

/-- The seven stores (R228 to R231). -/
def storeForm (s : State) : Instr → Option Transfer
  | .strIndex16 rd rn rm size => some ⟨2, lowReg rd, size, indexAddr s (lowReg rn) (lowReg rm) false, none⟩
  | .strIndex32 rd rn rm size sub => some ⟨4, rd, size, indexAddr s rn rm sub, none⟩
  | .strDisp16 rd rn imm3 size => some ⟨2, lowReg rd, size, dispAddr s (lowReg rn) imm3 size false, none⟩
  | .strDisp32 rd rn imm11 size sub => some ⟨4, rd, size, dispAddr s rn imm11 size sub, none⟩
  | .strPost16 rd rn rm size =>
    some ⟨2, lowReg rd, size, s.reg (lowReg rn), some (lowReg rn, indexAddr s (lowReg rn) (lowReg rm) false)⟩
  | .strPost32 rd rn rm size sub => some ⟨4, rd, size, s.reg rn, some (rn, indexAddr s rn rm sub)⟩
  | .strDispPost rd rn imm11 size sub => some ⟨4, rd, size, s.reg rn, some (rn, dispAddr s rn imm11 size sub)⟩
  | _ => none

/-- The instructions that may write any word of a register window through memory: the stores, MOVTS, and TRAP, whose
system call lets the kernel write. -/
def writesMemoryAtWill : Instr → Bool
  | .strIndex16 _ _ _ _ | .strIndex32 _ _ _ _ _ | .strPost16 _ _ _ _ | .strPost32 _ _ _ _ _ => true
  | .strDisp16 _ _ _ _ | .strDisp32 _ _ _ _ _ | .strDispPost _ _ _ _ _ => true
  | .movts16 _ _ | .movts32 _ _ _ | .trap _ => true
  | _ => false

/-- The instructions of the integer family (R160) and of the float family (R274), which write condition flags. -/
def writesFlags : Instr → Bool
  | .addImm16 _ _ _ | .addImm32 _ _ _ | .subImm16 _ _ _ | .subImm32 _ _ _ => true
  | .eor16 _ _ _ | .eor32 _ _ _ | .add16 _ _ _ | .add32 _ _ _ | .sub16 _ _ _ | .sub32 _ _ _ => true
  | .and16 _ _ _ | .and32 _ _ _ | .orr16 _ _ _ | .orr32 _ _ _ => true
  | .lsl16 _ _ _ | .lsl32 _ _ _ | .lsr16 _ _ _ | .lsr32 _ _ _ | .asr16 _ _ _ | .asr32 _ _ _ => true
  | .lslImm16 _ _ _ | .lslImm32 _ _ _ | .lsrImm16 _ _ _ | .lsrImm32 _ _ _ | .asrImm16 _ _ _ | .asrImm32 _ _ _ => true
  | .bitr16 _ _ | .bitr32 _ _ => true
  | .fadd16 _ _ _ | .fadd32 _ _ _ | .fsub16 _ _ _ | .fsub32 _ _ _ | .fmul16 _ _ _ | .fmul32 _ _ _ => true
  | .fmadd16 _ _ _ | .fmadd32 _ _ _ | .fmsub16 _ _ _ | .fmsub32 _ _ _ => true
  | .float16 _ _ _ | .float32 _ _ _ | .fix16 _ _ _ | .fix32 _ _ _ | .fabs16 _ _ _ | .fabs32 _ _ _ => true
  | _ => false

/-- The bytes a transfer size moves (R220). -/
def sizeBytes : Size → Nat
  | .byte => 1
  | .half => 2
  | .word => 4
  | .double => 8

/-- The base register, the offset, its sign and whether the base is updated instead of the address, as R226 and R227
give them for each form of load and store: the offset is `x[rm]`, or the zero-extended immediate times the bytes of the
transfer. -/
def addressParts (s : State) : Instr → Option (RegIdx × Nat × Bool × Bool)
  | .ldrIndex16 _ rn rm _ | .strIndex16 _ rn rm _ => some (lowReg rn, (s.reg (lowReg rm)).toNat, false, false)
  | .ldrIndex32 _ rn rm _ sub | .strIndex32 _ rn rm _ sub => some (rn, (s.reg rm).toNat, sub, false)
  | .ldrPost16 _ rn rm _ | .strPost16 _ rn rm _ => some (lowReg rn, (s.reg (lowReg rm)).toNat, false, true)
  | .ldrPost32 _ rn rm _ sub | .strPost32 _ rn rm _ sub => some (rn, (s.reg rm).toNat, sub, true)
  | .ldrDisp16 _ rn imm3 size | .strDisp16 _ rn imm3 size => some (lowReg rn, imm3.toNat * sizeBytes size, false, false)
  | .ldrDisp32 _ rn imm11 size sub | .strDisp32 _ rn imm11 size sub =>
    some (rn, imm11.toNat * sizeBytes size, sub, false)
  | .ldrDispPost _ rn imm11 size sub | .strDispPost _ rn imm11 size sub =>
    some (rn, imm11.toNat * sizeBytes size, sub, true)
  | _ => none

/-- A word plus, or minus, an offset, modulo 2^32 (R226). -/
def offsetBy (base : Word) (off : Nat) (sub : Bool) : Word :=
  BitVec.ofInt 32 (if sub then (base.toNat : Int) - off else (base.toNat : Int) + off)

/-- The address accessed, and the base register with the value it is to receive, are those of R226 and R227. -/
def Addressed (s : State) (i : Instr) (x : Transfer) : Prop :=
  ∃ rn off sub post, addressParts s i = some (rn, off, sub, post) ∧
    x.ea = (if post then s.reg rn else offsetBy (s.reg rn) off sub) ∧
    x.base = (if post then some (rn, offsetBy (s.reg rn) off sub) else none)

/-- The registers a load writes (R221). -/
def loadRegs (x : Transfer) : List RegIdx := if x.size = .double then [x.rd, pairReg x.rd] else [x.rd]

/-- Does a postmodify form name its base register among the registers it loads (R227)? -/
def baseLoaded (x : Transfer) : Prop := ∃ rn v, x.base = some (rn, v) ∧ rn ∈ loadRegs x

/-- The base register of a postmodify form, as a word index of the window. -/
def baseWords (x : Transfer) : List Nat :=
  match x.base with
  | some (rn, _) => [rn.toNat]
  | none => []

/-- The base register of a postmodify form has received its value (R227). -/
def BaseUpdated (x : Transfer) (t : State) : Prop := ∀ rn v, x.base = some (rn, v) → t.reg rn = v

/-- Byte `j` of what a store moves: of `x[rd]`, then of `x[rd + 1]` (R221). -/
def storedByte (s : State) (x : Transfer) (j : Nat) : Byte :=
  if j < 4 then (s.reg x.rd).extractLsb' (8 * j) 8 else (s.reg (pairReg x.rd)).extractLsb' (8 * (j - 4)) 8

/-- Is the target one of the `n` bytes from `g`? -/
def inRun (g : Target) (n : Nat) (h : Target) : Prop := ∃ j, j < n ∧ h = g.plus j

/-! ## Configurations and the invariant -/

/-- The codes of the causes as the version writes them (R345). -/
def writtenCodes (cfg : Config) : List (BitVec 4) :=
  [Cause.unimplemented, .softwareInterrupt, .unalignedAccess, .illegalAccess, .floatingPoint].map fun q =>
    (causeCode cfg.causes q).extractLsb' 0 (excauseBits cfg.arch) |>.setWidth 4

/-- Does the block of external memory miss the local memory of every core and the alias range (R71)? -/
def externalApart (cfg : Config) : Bool :=
  decide (localSize ≤ cfg.extBase) &&
    (gridKeys cfg).all fun k =>
      decide (k * localSize + localSize ≤ cfg.extBase) || decide (cfg.extBase + cfg.extSize ≤ k * localSize)

/-- Are the bounds of a reserved range multiples of 8 in local memory, and is the range off the general registers
(R74, R175)? -/
def rangeOk (w : RegWindow) (r : OffsetRange) : Bool :=
  r.lo % 8 == 0 && r.hi % 8 == 0 && decide (r.hi ≤ localSize) && (decide (r.hi ≤ w.base) || decide (w.base + 256 ≤ r.lo))

/-- Does the register window lie in local memory, in whole doublewords, with room for the registers of R30? -/
def windowOk (w : RegWindow) : Bool :=
  w.base % 8 == 0 && w.size % 8 == 0 && decide (0x800 ≤ w.size) && decide (w.base + w.size ≤ localSize)

/-- The length in bytes of the instruction a row names (R120). -/
def Op.width (op : Op) : Nat := (op.build fun _ _ => 0).width

/-- Does each decode table hold rows of its own length (R120)? -/
def tablesOk (d : DecodeConfig) : Bool :=
  d.table16.all (fun r => Op.width r.op == 2) && d.table32.all (fun r => Op.width r.op == 4)

/-- What the spec asks of the parameters (R5, R30, R36, R71, R74, R120, R340, R345). -/
def configOk (cfg : Config) : Bool :=
  decide (1 ≤ cfg.rows) && decide (cfg.rows ≤ 64) && decide (1 ≤ cfg.cols) && decide (cfg.cols ≤ 64) &&
    cfg.extBase % 8 == 0 && cfg.extSize % 8 == 0 && decide (0x2000000 ≤ cfg.extSize) &&
    decide (cfg.extSize ≤ 0x40000000) && externalApart cfg && windowOk cfg.window && rangeOk cfg.window cfg.reservedA &&
    rangeOk cfg.window cfg.reservedB && tablesOk cfg.decode &&
    decide ([cfg.irqDma0, cfg.irqDma1, cfg.irqWand].Nodup) &&
    [cfg.irqDma0, cfg.irqDma1, cfg.irqWand].all (fun i => decide (3 ≤ i.val) && decide (i.val ≤ 7)) &&
    decide ((0 :: writtenCodes cfg).Nodup) && (cfg.arch == .epiphanyIV || cfg.kmEn.isNone)

/-- A core's storage is canonical and in its bounds: the words of the window, and bytes of local memory outside it. -/
def ECore.wf (x : ECore) (w : RegWindow) : Bool :=
  mapWf x.window && x.window.all (fun p => decide (p.1 < w.size / 4)) && Memory.wf x.mem &&
    x.mem.all (fun p => decide (p.1 < localSize) && !inWindow w p.1)

/-- The invariant of the state: the parameters meet their constraints, the executing core is in the grid, the cores are
those of the grid, and every memory is canonical and in its bounds (R5, R20, R59). -/
structure State.Inv (s : State) : Prop where
  config : configOk s.cfg = true
  self : inGrid s.cfg s.self = true
  keys : s.cores.map Prod.fst = gridKeys s.cfg
  cores : ∀ p ∈ s.cores, p.2.wf s.cfg.window = true
  ext : Memory.wf s.ext = true
  extBound : ∀ p ∈ s.ext, p.1 < s.cfg.extSize

end Sys2Proof.Machine
end

