-- ==== Sys2Proof/Certificates/Slice0/Obligations.lean ====
section
/-! DEFINITION. The statements for the provers, in the order of OBLIGATIONS.json: encoding, the tick and interrupts,
memory, the instructions family by family, reset and the rules of the whole machine. -/

section Statements

open Sys2Proof Sys2Proof.Machine

/-! ## Encoding (30_encoding.md) -/

/-- Seventeen words, most of them the spec's own examples, one or more of each of the sixteen primary opcode spaces,
decode to the instructions they stand for (R127, R128, R135). -/
def Obligations.SpecWordsDecode : Prop :=
  decodeTableWord 16 0x0501 = some (.ldrIndex16 0 1 2 .byte) ∧
  decodeTableWord 16 0x44E4 = some (.ldrDisp16 2 1 1 .double) ∧
  decodeTableWord 16 0x0545 = some (.ldrPost16 0 1 2 .word) ∧
  decodeTableWord 16 0x0496 = some (.lslImm16 0 1 4) ∧
  decodeTableWord 16 0x041E = some (.bitr16 0 1) ∧
  decodeTableWord 32 0x0010255D = some (.strPost32 1 1 2 .word true) ∧
  decodeTableWord 16 0x00A3 = some (.movImm16 0 5) ∧
  decodeTableWord 32 0x2122068B = some (.movImm32 8 0x1234) ∧
  decodeTableWord 16 0x409A = some (.add16 2 0 1) ∧
  decodeTableWord 16 0x24B3 = some (.subImm16 1 1 1) ∧
  decodeTableWord 16 0xFE10 = some (.bcond16 0xFE .ne) ∧
  decodeTableWord 32 0x000080F8 = some (.bcond32 0x80 .link) ∧
  decodeTableWord 32 0x0402194F = some (.jr32 14) ∧
  decodeTableWord 32 0x0100054C = some (.ldrDisp32 0 1 2 .word true) ∧
  decodeTableWord 32 0x00200549 = some (.testset 0 1 2 false) ∧
  decodeTableWord 16 0x04D7 = some (.float16 0 1 1) ∧
  decodeTableWord 16 0x0FE2 = some (.trap 3)

/-- R123: with the default tables a word `w` is the instruction of a row exactly when `w AND mask = match`, and no two
rows of one length match the same word. R145: whatever the tables and the extension decoders, a word that a row matches
is an instruction of the table; another is what the first registered decoder that matches makes of it, by its first row
that matches; a decoder registered last is tried last. That a decoder is given as rows is the model's
(log entry 34), and so is its place in the order (log entry 25). -/
def Obligations.TableRowsDecodeAlone : Prop :=
  (∀ (w : BitVec 16) (i : Instr),
    decode16 ruleDecode w = some (.table i) ↔ ∃ r ∈ table16, w &&& r.mask = r.bits ∧ r.build w = i) ∧
  (∀ (w : BitVec 32) (i : Instr),
    decode32 ruleDecode w = some (.table i) ↔ ∃ r ∈ table32, w &&& r.mask = r.bits ∧ r.build w = i) ∧
  table16.Pairwise (fun r q => ∀ w, ¬(w &&& r.mask = r.bits ∧ w &&& q.mask = q.bits)) ∧
  table32.Pairwise (fun r q => ∀ w, ¬(w &&& r.mask = r.bits ∧ w &&& q.mask = q.bits)) ∧
  (∀ (d : DecodeConfig) (w : BitVec 16),
    ((∃ i, decode16 d w = some (.table i)) ↔ ∃ r ∈ d.table16, w &&& r.mask = r.bits) ∧
    ∀ e, decode16 d w = some (.ext e) ↔ (∀ r ∈ d.table16, w &&& r.mask ≠ r.bits) ∧
      ∃ before x after rows q rows', d.ext16 = before ++ x :: after ∧ (∀ y ∈ before, ∀ p ∈ y, w &&& p.mask ≠ p.bits) ∧
        x = rows ++ q :: rows' ∧ (∀ p ∈ rows, w &&& p.mask ≠ p.bits) ∧ w &&& q.mask = q.bits ∧
        e = { op := q.op, word := w.setWidth 32, width := 2, valid := q.valid }) ∧
  (∀ (d : DecodeConfig) (w : BitVec 32),
    ((∃ i, decode32 d w = some (.table i)) ↔ ∃ r ∈ d.table32, w &&& r.mask = r.bits) ∧
    ∀ e, decode32 d w = some (.ext e) ↔ (∀ r ∈ d.table32, w &&& r.mask ≠ r.bits) ∧
      ∃ before x after rows q rows', d.ext32 = before ++ x :: after ∧ (∀ y ∈ before, ∀ p ∈ y, w &&& p.mask ≠ p.bits) ∧
        x = rows ++ q :: rows' ∧ (∀ p ∈ rows, w &&& p.mask ≠ p.bits) ∧ w &&& q.mask = q.bits ∧
        e = { op := q.op, word := w, width := 4, valid := q.valid }) ∧
  ∀ (s : State) (x : ExtDecoder 16) (y : ExtDecoder 32),
    (∀ w f, decode16 s.cfg.decode w = some f → decode16 (s.registerExt16 x).cfg.decode w = some f) ∧
    ∀ w f, decode32 s.cfg.decode w = some f → decode32 (s.registerExt32 y).cfg.decode w = some f

/-- R122, R143: with the default tables and no extension decoder, a word with the low nibble of the other length, and
the words of the undefined regions, match nothing. -/
def Obligations.UndefinedWordsMatchNothing : Prop :=
  (∀ w : BitVec 16, w.extractLsb' 0 4 ∈ [0b1000#4, 0b1001#4, 0b1011#4, 0b1100#4, 0b1101#4, 0b1111#4] →
    decode16 ruleDecode w = none) ∧
  (∀ w : BitVec 32, w.extractLsb' 0 4 ∉ [0b1000#4, 0b1001#4, 0b1011#4, 0b1100#4, 0b1101#4, 0b1111#4] →
    decode32 ruleDecode w = none) ∧
  (∀ w : BitVec 16, w.extractLsb' 0 4 = 0b0011#4 → w.getLsbD 4 = true → w.getLsbD 6 = true → decode16 ruleDecode w = none) ∧
  (∀ w : BitVec 16, w.extractLsb' 0 4 = 0b0010#4 → w.extractLsb' 8 2 ≠ 0b00#2 →
    w.extractLsb' 4 6 ∉ [0b010000#6, 0b010001#6, 0b010100#6, 0b010101#6, 0b011000#6, 0b011001#6, 0b011010#6,
      0b011011#6, 0b011100#6, 0b011101#6, 0b011110#6, 0b011111#6, 0b111001#6, 0b111100#6, 0b111110#6] →
    decode16 ruleDecode w = none) ∧
  (∀ w : BitVec 32, w.extractLsb' 0 4 = 0b1001#4 → w.getLsbD 22 = true → decode32 ruleDecode w = none) ∧
  (∀ w : BitVec 32, w.extractLsb' 0 4 = 0b1001#4 → w.extractLsb' 21 2 = 0b01#2 → w.extractLsb' 4 3 ≠ 0b100#3 →
    decode32 ruleDecode w = none) ∧
  (∀ w : BitVec 32, w.extractLsb' 0 4 = 0b1011#4 → w.getLsbD 4 = false → w.extractLsb' 16 4 ≠ 0b0010#4 →
    decode32 ruleDecode w = none) ∧
  (∀ w : BitVec 32, w.extractLsb' 0 4 = 0b1011#4 → w.getLsbD 4 = true → w.getLsbD 6 = true → decode32 ruleDecode w = none) ∧
  (∀ w : BitVec 32, w.extractLsb' 0 4 = 0b1111#4 →
    w.extractLsb' 16 4 ∉ [0b0010#4, 0b0110#4, 0b0111#4, 0b1010#4, 0b1110#4] → decode32 ruleDecode w = none) ∧
  ∀ w : BitVec 32, w.extractLsb' 0 4 = 0b1111#4 → w.extractLsb' 16 4 = 0b0010#4 → w.extractLsb' 8 2 ≠ 0b00#2 →
    w.extractLsb' 4 6 ∉ [0b010000#6, 0b010001#6, 0b010100#6, 0b010101#6] → decode32 ruleDecode w = none

/-- R141: under the default tables two words that differ only in don't-care bits decode alike. The rows with don't-care
bits, by what they match: BITR; JR and JALR; the SPC16 instructions without a field; LSX32 and LSP32; IMM32; ALU32, SHI32 and FP32;
BITR32; MOVC32; SYS32; JMP32. -/
def Obligations.DontCareBitsAreIgnored : Prop :=
  (∀ w v : BitVec 16, w &&& 0x001F#16 = 0x001E#16 → (w ^^^ v) &&& ~~~0x03E0#16 = 0 → decode16 ruleDecode v = decode16 ruleDecode w) ∧
  (∀ w v : BitVec 16, w &&& 0x03EF#16 = 0x0142#16 → (w ^^^ v) &&& ~~~0xE000#16 = 0 → decode16 ruleDecode v = decode16 ruleDecode w) ∧
  (∀ w v : BitVec 16, w &&& 0x03FF#16 ∈ [0x0182#16, 0x0192#16, 0x01A2#16, 0x01B2#16, 0x01C2#16, 0x01D2#16, 0x01F2#16,
    0x0392#16, 0x03C2#16] → (w ^^^ v) &&& ~~~0xFC00#16 = 0 → decode16 ruleDecode v = decode16 ruleDecode w) ∧
  (∀ w v : BitVec 32, w &&& 0x0000000F#32 = 0x00000009#32 → (w ^^^ v) &&& ~~~0x000F0000#32 = 0 →
    decode32 ruleDecode v = decode32 ruleDecode w) ∧
  (∀ w v : BitVec 32, w &&& 0x0000000F#32 = 0x0000000D#32 → (w ^^^ v) &&& ~~~0x006F0000#32 = 0 →
    decode32 ruleDecode v = decode32 ruleDecode w) ∧
  (∀ w v : BitVec 32, w &&& 0x0000001F#32 = 0x0000001B#32 → (w ^^^ v) &&& ~~~0x03000000#32 = 0 →
    decode32 ruleDecode v = decode32 ruleDecode w) ∧
  (∀ w v : BitVec 32, w &&& 0x000F000F#32 ∈ [0x000A000F#32, 0x0007000F#32] → (w ^^^ v) &&& ~~~0x00700000#32 = 0 →
    decode32 ruleDecode v = decode32 ruleDecode w) ∧
  (∀ w v : BitVec 32, w &&& 0x000F000F#32 ∈ [0x0006000F#32, 0x000E000F#32] → (w ^^^ v) &&& ~~~0x03F00000#32 = 0 →
    decode32 ruleDecode v = decode32 ruleDecode w) ∧
  (∀ w v : BitVec 32, w &&& 0x000F001F#32 = 0x000E001F#32 → (w ^^^ v) &&& ~~~0x03F003E0#32 = 0 →
    decode32 ruleDecode v = decode32 ruleDecode w) ∧
  (∀ w v : BitVec 32, w &&& 0x000F030F#32 = 0x0002000F#32 → (w ^^^ v) &&& ~~~0x03F00000#32 = 0 →
    decode32 ruleDecode v = decode32 ruleDecode w) ∧
  (∀ w v : BitVec 32, w &&& 0x000F03EF#32 = 0x0002010F#32 → (w ^^^ v) &&& ~~~0x03C00000#32 = 0 →
    decode32 ruleDecode v = decode32 ruleDecode w) ∧
  ∀ w v : BitVec 32, w &&& 0x000F03EF#32 = 0x0002014F#32 → (w ^^^ v) &&& ~~~0xE3F0E000#32 = 0 →
    decode32 ruleDecode v = decode32 ruleDecode w

/-- R140: `check()` fails exactly for K1, a FLOAT, FIX or FABS whose `rm` is not its `rn`; K2, a doubleword load or
store with an odd `rd`; K3, a conditional move with condition 15. -/
def Obligations.ChecksAreTheThree : Prop :=
  ∀ i : Instr, i.check = false ↔
    (∃ rd rn rm, rm ≠ rn ∧ (i = .float16 rd rn rm ∨ i = .fix16 rd rn rm ∨ i = .fabs16 rd rn rm)) ∨
    (∃ rd rn rm, rm ≠ rn ∧ (i = .float32 rd rn rm ∨ i = .fix32 rd rn rm ∨ i = .fabs32 rd rn rm)) ∨
    (∃ x, (loadForm State.reset i = some x ∨ storeForm State.reset i = some x) ∧ x.size = .double ∧
      x.rd.toNat % 2 = 1) ∨
    (∃ rd rn, i = .movCond16 rd rn .link) ∨ ∃ rd rn, i = .movCond32 rd rn .link

/-- With the default tables, decoding the bytes of an instruction's encoding gives the instruction back, with the bytes
after it, for every instruction and every value of its operands; an extension decoder of 16-bit words can stand in the
way of a 32-bit instruction only (R121, R145). -/
def Obligations.DecodeOfEncode : Prop :=
  ∀ (d : DecodeConfig) (i : Instr) (rest : List Byte), d.table16 = table16 → d.table32 = table32 →
    (i.width = 4 → d.ext16 = []) → decodeBytes d (i.bytes ++ rest) = .instr (.table i) rest

/-! ## The tick (60_exceptions.md, section 3) -/

/-- A step runs the decoded instruction: where the halfword at `pc` is a 16-bit instruction, or it is none and the word
of the halfwords at `pc` and `pc + 2` is a 32-bit one, and the instruction passes its check, the step of a running core
is `exec` of it at that same state, or for an extension instruction (R145) the run of its execute, what that is being a
free value (log entry 34). Whatever it is, after its acts one of the same three control signals is applied, the hardware
loop taking precedence. -/
def Obligations.StepRunsTheDecoded : Prop :=
  (∀ (s : State) (f : Found) (h0 h1 : Half), Running s → HalfAt s s.pc h0 →
    (decode16 s.cfg.decode h0 = some f ∨
      (decode16 s.cfg.decode h0 = none ∧ HalfAt s (s.pc + 2) h1 ∧
        decode32 s.cfg.decode (joinHalves h0 h1) = some f)) →
    (∀ i, f = .table i → i.WellFormed → step s = exec i s) ∧
    ∀ e, f = .ext e → e.valid = true → ∃ r, step s = runExt e r { s with fresh := s.fresh + 1 }) ∧
  ∀ (s u : State) (e : ExtInstr) (r : ExtReply), extActs r.acts s = .ok u → Next (runExt e r s) fun t =>
    t.me.notes = .validInstruction :: u.me.notes ∧ (t.me.idle = true ↔ u.me.idle = true ∨ r.signal = .idle) ∧
    (s.pc = u.ctl .le ∧ u.ctl .lc ≠ 0 → t.pc = u.ctl .ls ∧ t.ctl .lc = u.ctl .lc - 1) ∧
    (¬(s.pc = u.ctl .le ∧ u.ctl .lc ≠ 0) → t.ctl .lc = u.ctl .lc ∧
      t.pc = if r.signal = .none then u.pc else u.pc + BitVec.ofNat 32 e.width) ∧
    Frame u t [Ctl.index .pc, Ctl.index .lc]

/-- An instruction whose encoding lies at `pc` is the one the step runs: the round trip, the fetch and the tick
together, with the default tables. -/
def Obligations.StepRunsTheEncoded : Prop :=
  ∀ (s : State) (i : Instr) (g : Target), Running s → i.WellFormed → configOk s.cfg = true →
    s.cfg.decode.table16 = table16 → s.cfg.decode.table32 = table32 → (i.width = 4 → s.cfg.decode.ext16 = []) →
    translate s.cfg s.self s.pc = g → g.plain s.cfg.window = true →
    (i.width = 4 → translate s.cfg s.self (s.pc + 2) = g.plus 2 ∧ (g.plus 2).plain s.cfg.window = true) →
    (∀ j, (h : j < i.bytes.length) → s.byteOf (g.plus j) = i.bytes[j]) → step s = exec i s

/-- The four halting faults found before execute (R331, R332, R334, R335), each as R336 says: ACTIVE cleared, the
notification emitted, everything else as it was. -/
def Obligations.FaultsBeforeExecuteHalt : Prop :=
  (∀ s : State, s.halting = false → s.agenda = [] → Quiet s.me → s.me.idle = false →
    (s.ctl .debugStatus).getLsbD bitHalt = false → s.flag bitActive = true → s.pc.getLsbD 0 = true →
    Next (step s) fun t => Halted s t .invalidProgramCounter) ∧
  (∀ s : State, Running s → translate s.cfg s.self s.pc = .invalid →
    Next (step s) fun t => Halted s t (.invalidMemoryAccess s.pc false)) ∧
  (∀ (s : State) (h0 : Half), Running s → HalfAt s s.pc h0 → decode16 s.cfg.decode h0 = none →
    translate s.cfg s.self (s.pc + 2) = .invalid →
    Next (step s) fun t => Halted s t (.invalidMemoryAccess (s.pc + 2) false)) ∧
  (∀ (s : State) (h0 h1 : Half), Running s → HalfAt s s.pc h0 → decode16 s.cfg.decode h0 = none →
    HalfAt s (s.pc + 2) h1 → decode32 s.cfg.decode (joinHalves h0 h1) = none →
    Next (step s) fun t => Halted s t .invalidInstruction) ∧
  ∀ (s : State) (f : Found) (h0 h1 : Half), Running s → HalfAt s s.pc h0 →
    ((∃ i, f = .table i ∧ i.check = false) ∨ ∃ e, f = .ext e ∧ e.valid = false) →
    (decode16 s.cfg.decode h0 = some f ∨
      (decode16 s.cfg.decode h0 = none ∧ HalfAt s (s.pc + 2) h1 ∧
        decode32 s.cfg.decode (joinHalves h0 h1) = some f)) →
    Next (step s) fun t => Halted s t .invalidEncoding

/-- The ticks that execute nothing (R355 (d) to (g), R357): an idle core, a core in debug halt, whose ACTIVE is
cleared, and a core that is not active. -/
def Obligations.SleepingTicks : Prop :=
  ∀ s : State, s.halting = false → s.agenda = [] → Quiet s.me →
    (s.me.idle = true → step s = .next s) ∧
    (s.me.idle = false → (s.ctl .debugStatus).getLsbD bitHalt = true →
      Next (step s) fun t => t.flag bitActive = false ∧ (∀ b, b ≠ bitActive → t.flag b = s.flag b) ∧
        Frame s t [Ctl.index .status] ∧ SameOutcome s t ∧ t.me.notes = s.me.notes) ∧
    (s.me.idle = false → (s.ctl .debugStatus).getLsbD bitHalt = false → s.flag bitActive = false →
      step s = .next s)

/-- The arbiter (R346): with interrupts disabled or no level ready nothing is delivered; otherwise the first ready
level is entered, and the tick ends there. -/
def Obligations.InterruptEntry : Prop :=
  (∀ s : State, update s = none ↔ Quiet s.me) ∧
  ∀ (s : State) (i : Nat), s.flag bitGid = false → Ready s.me i → (∀ j, j < i → ¬ Ready s.me j) →
    ∃ t, update s = some t ∧ Entered s.cfg s.me t.me i ∧
      Frame s t [Ctl.index .iret, Ctl.index .pc, Ctl.index .ilat, Ctl.index .ipend, Ctl.index .status] ∧
      (s.halting = false → s.agenda = [] → step s = .next t)

/-- Priority (R347): of two latched, unmasked levels with none pending the tick enters the lower, if none below it is
ready, and the higher stays latched; while a level is pending no level of the same or a lower priority is entered, and
each keeps its latch bit and its pending bit. -/
def Obligations.LowerLevelWins : Prop :=
  (∀ (s : State) (i j : Nat), i < j → j < 9 → s.flag bitGid = false → (∀ k, k < 9 → (s.ctl .ipend).getLsbD k = false) →
    (s.ctl .ilat).getLsbD i = true → (s.ctl .ilat).getLsbD j = true → (s.ctl .imask).getLsbD i = false →
    (s.ctl .imask).getLsbD j = false → (∀ k, k < i → ¬ Ready s.me k) →
    ∃ t, update s = some t ∧ Entered s.cfg s.me t.me i ∧ (s.halting = false → s.agenda = [] → step s = .next t) ∧
      (t.ctl .ilat).getLsbD j = true ∧ (t.ctl .ipend).getLsbD j = false) ∧
  ∀ (s t : State) (i j : Nat), i ≤ j → j < 9 → (s.ctl .ipend).getLsbD i = true → update s = some t →
    ¬ Entered s.cfg s.me t.me j ∧ (t.ctl .ilat).getLsbD j = (s.ctl .ilat).getLsbD j ∧
      (t.ctl .ipend).getLsbD j = (s.ctl .ipend).getLsbD j

/-- RTI undoes an entry (R352): after the entry of an interrupt with none pending, RTI goes back to the saved program
counter, with interrupts enabled and the pending word as before the entry. -/
def Obligations.ReturnUndoesEntry : Prop :=
  ∀ s t : State, (∀ b, b < 9 → (s.ctl .ipend).getLsbD b = false) → update s = some t → ¬ atLoopEnd t →
    Next (exec .rti t) fun u => u.pc = s.pc ∧ u.ctl .ipend = s.ctl .ipend ∧ u.flag bitGid = false ∧
      ∀ i, u.reg i = s.reg i

/-- The hardware loop takes precedence over every signal (R362): an instruction at the loop's end that completes with
the loop counter not 0 goes to the loop's start and counts down, whatever it is, a taken branch and IDLE included; the
stores, MOVTS and TRAP, which may write LC, LE and LS themselves, are not spoken of here. -/
def Obligations.LoopEndTakesPrecedence : Prop :=
  ∀ (i : Instr) (s t : State), writesMemoryAtWill i = false → exec i s = .next t →
    t.me.notes = .validInstruction :: s.me.notes → atLoopEnd s →
    t.pc = s.ctl .ls ∧ t.ctl .lc = s.ctl .lc - 1

/-- The other agents (R371 to R373), by the first entry of the agenda: a turn of a core of the grid is that core's tick,
the step of the machine whose executing core it is and whose agenda is empty, with the rest of the agenda kept, of which
three cases stand here by themselves; a host or DMA write is a memory write issued as the core, whose fault
changes nothing; a host trigger with a right pairing (R344) and a DMA trigger latch a level on the core.
Setting the halting flag ends the run, and nothing else sets it. The agenda is the model's own field (log entry 3);
that a faulting write of the host or the DMA engine changes nothing is log entries 23 and 24. -/
def Obligations.OtherAgentsAct : Prop :=
  (∀ (s : State) (rest : List Event) (c : CoreId), s.halting = false → inGrid s.cfg c = true →
    (s.agenda = .turn c :: rest →
      step s = mapNext (fun t => { t with agenda := rest }) (step { s with self := c, agenda := [] }) ∧
      let u := { s with self := c, agenda := rest }
      (∀ t, update u = some t → step s = .next t) ∧
      (Quiet u.me → u.me.idle = true → step s = .next u) ∧
      ∀ (i : Instr) (h0 : Half), Running { u with agenda := [] } → HalfAt u u.pc h0 →
        decode16 s.cfg.decode h0 = some (.table i) → i.WellFormed → step s = exec i u) ∧
    (∀ addr size v e, e = .hostWrite c addr size v ∨ e = .dmaWrite c addr size v → s.agenda = e :: rest →
      (∀ m, memWrite { s with agenda := rest } c addr size v = .ok m → step s = .next m) ∧
      (aligned addr (accessBytes size) = false ∨ translate s.cfg c addr = .invalid →
        step s = .next { s with agenda := rest })) ∧
    (∀ irq cause, s.agenda = .hostTrigger c irq cause :: rest → (cause.isSome = true ↔ irq = 1 ∨ irq = 8) →
      Next (step s) fun t => LatchSet ((s.core c).ctl .ilat) ((t.core c).ctl .ilat) irq ∧
        (∀ q, cause = some q → CauseWritten s.cfg ((s.core c).ctl .status) ((t.core c).ctl .status) q) ∧
        (∀ d, d ≠ c → t.core d = s.core d) ∧ t.agenda = rest) ∧
    ∀ ch1, s.agenda = .dmaTrigger c ch1 :: rest → Next (step s) fun t =>
      LatchSet ((s.core c).ctl .ilat) ((t.core c).ctl .ilat) (if ch1 then s.cfg.irqDma1 else s.cfg.irqDma0) ∧
        (t.core c).ctl .status = (s.core c).ctl .status ∧ (∀ d, d ≠ c → t.core d = s.core d) ∧ t.agenda = rest) ∧
  (∀ (s : State) (rest : List Event), s.halting = false → s.agenda = .hostHalt :: rest →
    step s = .next { s with agenda := rest, halting := true }) ∧
  (∀ s : State, s.halting = true → step s = .fault .runEnded) ∧
  ∀ s t : State, step s = .next t → t.halting = true → ∃ rest, s.agenda = .hostHalt :: rest

/-! ## Memory (20_memory.md, 10_state.md) -/

/-- Address translation (R70 to R75): external memory, the issuing core's alias, a core of the grid, each case but the
first less the reserved ranges, and everything else invalid. -/
def Obligations.TranslationCases : Prop :=
  ∀ (cfg : Config) (self : CoreId) (a : Word),
    let row := a.toNat / 2 ^ 26
    let col := a.toNat / 2 ^ 20 % 64
    let off := a.toNat % 2 ^ 20
    let inReserved := (cfg.reservedA.lo ≤ off ∧ off < cfg.reservedA.hi) ∨
      (cfg.reservedB.lo ≤ off ∧ off < cfg.reservedB.hi)
    let isExternal := cfg.extBase ≤ a.toNat ∧ a.toNat < cfg.extBase + cfg.extSize
    let isAlias := ¬ isExternal ∧ a.toNat < 2 ^ 20
    let isGlobal := ¬ isExternal ∧ ¬ isAlias ∧ row < cfg.rows ∧ col < cfg.cols
    (isExternal → translate cfg self a = .external (a.toNat - cfg.extBase)) ∧
    (isAlias → ¬ inReserved → translate cfg self a = .core self off) ∧
    (isGlobal → ¬ inReserved → ∃ c : CoreId, c.row.toNat = row ∧ c.col.toNat = col ∧
      translate cfg self a = .core c off) ∧
    (isAlias ∨ isGlobal → inReserved → translate cfg self a = .invalid) ∧
    (¬ isExternal → ¬ isAlias → ¬ isGlobal → translate cfg self a = .invalid)

/-- R63: the address of a core, the core and the offset of an address, and their round trip on the cores of a grid. -/
def Obligations.CoreIdRoundTrip : Prop :=
  (∀ c : CoreId, (coreAddr c).toNat = c.row.toNat * 2 ^ 26 + c.col.toNat * 2 ^ 20) ∧
  (∀ a : Word, (coreIdOf a).row.toNat = a.toNat / 2 ^ 26 ∧ (coreIdOf a).col.toNat = a.toNat / 2 ^ 20 % 64 ∧
    offsetOf a = a.toNat % 2 ^ 20) ∧
  ∀ (cfg : Config) (c : CoreId), inGrid cfg c = true → coreIdOf (coreAddr c) = c ∧ offsetOf (coreAddr c) = 0

/-- R83: under the constraints on the parameters an aligned access whose first byte translates stays in bounds, and so
does the second half of an aligned doubleword, which translates to the same target four bytes on. -/
def Obligations.AlignedAccessesStayWhole : Prop :=
  ∀ (cfg : Config) (self : CoreId) (a : Word), configOk cfg = true → translate cfg self a ≠ .invalid →
    (∀ size, aligned a (accessBytes size) = true → inBounds cfg (translate cfg self a) size = true) ∧
    (aligned a 8 = true → translate cfg self (a + 4) = (translate cfg self a).plus 4)

/-- Memory is an array of bytes, little-endian, and a register window holds its words so (R22, R84, R86): a read of one
byte gives it, a wider aligned read the bytes from the lowest address up, zeros above; an aligned word read inside a
window is word `(offset - REG_BASE) / 4` of it, and general register `i` is the word at `REG_BASE + 4 * i` of the core's
own memory. -/
def Obligations.ReadsAreTheBytes : Prop :=
  (∀ (s : State) (c : CoreId) (a : Word) (size : Access), configOk s.cfg = true →
    aligned a (accessBytes size) = true → translate s.cfg c a ≠ .invalid →
    ∃ v, memRead s c a size = .ok v ∧
      (∀ j, j < 4 → v.extractLsb' (8 * j) 8 =
        if j < accessBytes size then s.byteOf ((translate s.cfg c a).plus j) else 0) ∧
      ∀ d off, translate s.cfg c a = .core d off → s.cfg.window.base ≤ off →
        off < s.cfg.window.base + s.cfg.window.size → size = .b4 →
        v = (s.core d).word ((off - s.cfg.window.base) / 4)) ∧
  ∀ (s : State) (i : RegIdx), configOk s.cfg = true →
    memRead s s.self (BitVec.ofNat 32 (s.cfg.window.base + 4 * i.toNat)) .b4 = .ok (s.reg i)

/-- R85: an aligned write to memory outside the register windows changes exactly its bytes, least significant first. -/
def Obligations.WritesChangeTheirBytes : Prop :=
  ∀ (s : State) (c : CoreId) (a : Word) (size : Access) (v : Word) (g : Target), configOk s.cfg = true →
    aligned a (accessBytes size) = true → translate s.cfg c a = g → g.plain s.cfg.window = true →
    ∃ t, memWrite s c a size v = .ok t ∧
      (∀ j, j < accessBytes size → t.byteOf (g.plus j) = v.extractLsb' (8 * j) 8) ∧
      (∀ h, ¬ inRun g (accessBytes size) h → t.byteOf h = s.byteOf h) ∧
      (∀ d k, (t.core d).word k = (s.core d).word k) ∧
      (∀ d, (t.core d).idle = (s.core d).idle ∧ (t.core d).passed = (s.core d).passed ∧
        (t.core d).failed = (s.core d).failed ∧ (t.core d).exitCode = (s.core d).exitCode ∧
        (t.core d).notes = (s.core d).notes) ∧
      t.cfg = s.cfg ∧ t.halting = s.halting ∧ t.self = s.self ∧ t.agenda = s.agenda

/-- A word written to a register window lands on the core that owns it, with the register's side effect (R90): STATUS
keeps its low three bits (R34); FSTATUS writes all of STATUS (R35); ILATST and ILATCL set and clear latch bits (R38);
DEBUGCMD sets or clears the debug-halt flag (R41); RESETCORE with bit 0 clear zeroes the window (R42); any other word
is plain storage. The cell written keeps the raw word, STATUS the merged one. -/
def Obligations.WindowWriteEffects : Prop :=
  ∀ (s : State) (c d : CoreId) (a : Word) (off : Nat) (v : Word),
    aligned a 4 = true → translate s.cfg c a = .core d off → inWindow s.cfg.window off = true →
    ∃ t, memWrite s c a .b4 v = .ok t ∧ (∀ e, e ≠ d → t.core e = s.core e) ∧
      (t.core d).mem = (s.core d).mem ∧ (t.core d).idle = (s.core d).idle ∧ (t.core d).passed = (s.core d).passed ∧
      (t.core d).failed = (s.core d).failed ∧ (t.core d).exitCode = (s.core d).exitCode ∧ t.ext = s.ext ∧
      (∀ k, k ≠ windowIndex s.cfg.window off → k ≠ Ctl.index .status → k ≠ Ctl.index .ilat → k ≠ Ctl.index .debugStatus →
        ¬(windowIndex s.cfg.window off = Ctl.index .resetCore ∧ v.getLsbD 0 = false) → (t.core d).word k = (s.core d).word k) ∧
      (windowIndex s.cfg.window off ≠ Ctl.index .status → (t.core d).word (windowIndex s.cfg.window off) = v) ∧
      (windowIndex s.cfg.window off = Ctl.index .status → ∀ b, ((t.core d).ctl .status).getLsbD b =
        if b < 3 then ((s.core d).ctl .status).getLsbD b else v.getLsbD b) ∧
      (windowIndex s.cfg.window off = Ctl.index .fstatus → (t.core d).ctl .status = v) ∧
      (windowIndex s.cfg.window off ∉ [Ctl.index .status, Ctl.index .fstatus, Ctl.index .resetCore] →
        (t.core d).ctl .status = (s.core d).ctl .status) ∧
      (windowIndex s.cfg.window off = Ctl.index .ilatSt → ∀ b, ((t.core d).ctl .ilat).getLsbD b =
        (((s.core d).ctl .ilat).getLsbD b || v.getLsbD b)) ∧
      (windowIndex s.cfg.window off = Ctl.index .ilatCl → ∀ b, ((t.core d).ctl .ilat).getLsbD b =
        (((s.core d).ctl .ilat).getLsbD b && !v.getLsbD b)) ∧
      (windowIndex s.cfg.window off ∉ [Ctl.index .ilat, Ctl.index .ilatSt, Ctl.index .ilatCl, Ctl.index .resetCore] →
        (t.core d).ctl .ilat = (s.core d).ctl .ilat) ∧
      (windowIndex s.cfg.window off = Ctl.index .debugCmd → ∀ b, ((t.core d).ctl .debugStatus).getLsbD b =
        if b = 0 ∧ v.getLsbD 1 = false then v.getLsbD 0 else ((s.core d).ctl .debugStatus).getLsbD b) ∧
      (windowIndex s.cfg.window off ∉ [Ctl.index .debugStatus, Ctl.index .debugCmd, Ctl.index .resetCore] →
        (t.core d).ctl .debugStatus = (s.core d).ctl .debugStatus) ∧
      (windowIndex s.cfg.window off = Ctl.index .resetCore → v.getLsbD 0 = false →
        ∀ k, k ≠ Ctl.index .resetCore → (t.core d).word k = 0) ∧
      (windowIndex s.cfg.window off = Ctl.index .resetCore → v.getLsbD 0 = true →
        ∀ k, k ≠ Ctl.index .resetCore → (t.core d).word k = (s.core d).word k)

/-- A write narrower than a word onto one of the six side-effect registers is refused (R47), and onto any other word of
a window it changes exactly its bytes. -/
def Obligations.NarrowWindowWrites : Prop :=
  ∀ (s : State) (c d : CoreId) (a : Word) (off : Nat) (size : Access) (v : Word), configOk s.cfg = true →
    size ≠ .b4 → aligned a (accessBytes size) = true → translate s.cfg c a = .core d off → inWindow s.cfg.window off = true →
    (windowIndex s.cfg.window off ∈ [Ctl.index .status, Ctl.index .fstatus, Ctl.index .ilatSt, Ctl.index .ilatCl,
      Ctl.index .debugCmd, Ctl.index .resetCore] → memWrite s c a size v = .refused .narrowSideEffectWrite) ∧
    (windowIndex s.cfg.window off ∉ [Ctl.index .status, Ctl.index .fstatus, Ctl.index .ilatSt, Ctl.index .ilatCl,
      Ctl.index .debugCmd, Ctl.index .resetCore] →
      ∃ t, memWrite s c a size v = .ok t ∧
        (∀ j, j < accessBytes size → t.byteOf (.core d (off + j)) = v.extractLsb' (8 * j) 8) ∧
        ∀ h, ¬ inRun (.core d off) (accessBytes size) h → t.byteOf h = s.byteOf h)

/-! ## Integer instructions (40_integer_alu.md) -/

/-- ADD, register and immediate forms (R161, R162). -/
def Obligations.AddCompletes : Prop :=
  ∀ s : State,
    (∀ rd rn rm : RegLow, AddDone s (exec (.add16 rd rn rm) s) 2 (lowReg rd) (s.reg (lowReg rn)) (s.reg (lowReg rm))) ∧
    (∀ rd rn rm : RegIdx, AddDone s (exec (.add32 rd rn rm) s) 4 rd (s.reg rn) (s.reg rm)) ∧
    (∀ (rd rn : RegLow) (imm : BitVec 3),
      AddDone s (exec (.addImm16 rd rn imm) s) 2 (lowReg rd) (s.reg (lowReg rn)) (BitVec.ofInt 32 imm.toInt)) ∧
    ∀ (rd rn : RegIdx) (imm : BitVec 11),
      AddDone s (exec (.addImm32 rd rn imm) s) 4 rd (s.reg rn) (BitVec.ofInt 32 imm.toInt)

/-- SUB, register and immediate forms (R163, R164). -/
def Obligations.SubCompletes : Prop :=
  ∀ s : State, s.cfg.alu = ruleAlu →
    (∀ rd rn rm : RegLow, SubDone s (exec (.sub16 rd rn rm) s) 2 (lowReg rd) (s.reg (lowReg rn)) (s.reg (lowReg rm))) ∧
    (∀ rd rn rm : RegIdx, SubDone s (exec (.sub32 rd rn rm) s) 4 rd (s.reg rn) (s.reg rm)) ∧
    (∀ (rd rn : RegLow) (imm : BitVec 3),
      SubDone s (exec (.subImm16 rd rn imm) s) 2 (lowReg rd) (s.reg (lowReg rn)) (BitVec.ofInt 32 imm.toInt)) ∧
    ∀ (rd rn : RegIdx) (imm : BitVec 11),
      SubDone s (exec (.subImm32 rd rn imm) s) 4 rd (s.reg rn) (BitVec.ofInt 32 imm.toInt)

/-- AND, ORR, EOR and BITR (R165 to R167, R174): bit `i` of BITR's result is bit `31 - i` of the operand. -/
def Obligations.LogicCompletes : Prop :=
  ∀ s : State, s.cfg.alu = ruleAlu →
    (∀ rd rn rm : RegLow,
      LogicDone s (exec (.and16 rd rn rm) s) 2 (lowReg rd) (s.reg (lowReg rn) &&& s.reg (lowReg rm)) ∧
      LogicDone s (exec (.orr16 rd rn rm) s) 2 (lowReg rd) (s.reg (lowReg rn) ||| s.reg (lowReg rm)) ∧
      LogicDone s (exec (.eor16 rd rn rm) s) 2 (lowReg rd) (s.reg (lowReg rn) ^^^ s.reg (lowReg rm))) ∧
    (∀ rd rn rm : RegIdx,
      LogicDone s (exec (.and32 rd rn rm) s) 4 rd (s.reg rn &&& s.reg rm) ∧
      LogicDone s (exec (.orr32 rd rn rm) s) 4 rd (s.reg rn ||| s.reg rm) ∧
      LogicDone s (exec (.eor32 rd rn rm) s) 4 rd (s.reg rn ^^^ s.reg rm)) ∧
    (∀ rd rn : RegLow, ∃ r : Word, (∀ i, i < 32 → r.getLsbD i = (s.reg (lowReg rn)).getLsbD (31 - i)) ∧
      LogicDone s (exec (.bitr16 rd rn) s) 2 (lowReg rd) r) ∧
    ∀ rd rn : RegIdx, ∃ r : Word, (∀ i, i < 32 → r.getLsbD i = (s.reg rn).getLsbD (31 - i)) ∧
      LogicDone s (exec (.bitr32 rd rn) s) 4 rd r

/-- LSL, LSR and ASR, register forms by `rm[4:0]` and immediate forms (R168 to R173): times and divided by a power of
two, the division of LSR unsigned and that of ASR signed, rounding down. -/
def Obligations.ShiftsComplete : Prop :=
  ∀ s : State, s.cfg.alu = ruleAlu →
    (∀ rd rn rm : RegLow,
      let a := s.reg (lowReg rn)
      let n := (s.reg (lowReg rm)).toNat % 32
      LogicDone s (exec (.lsl16 rd rn rm) s) 2 (lowReg rd) (BitVec.ofNat 32 (a.toNat * 2 ^ n)) ∧
      LogicDone s (exec (.lsr16 rd rn rm) s) 2 (lowReg rd) (BitVec.ofNat 32 (a.toNat / 2 ^ n)) ∧
      LogicDone s (exec (.asr16 rd rn rm) s) 2 (lowReg rd) (BitVec.ofInt 32 (a.toInt / 2 ^ n))) ∧
    (∀ rd rn rm : RegIdx,
      let a := s.reg rn
      let n := (s.reg rm).toNat % 32
      LogicDone s (exec (.lsl32 rd rn rm) s) 4 rd (BitVec.ofNat 32 (a.toNat * 2 ^ n)) ∧
      LogicDone s (exec (.lsr32 rd rn rm) s) 4 rd (BitVec.ofNat 32 (a.toNat / 2 ^ n)) ∧
      LogicDone s (exec (.asr32 rd rn rm) s) 4 rd (BitVec.ofInt 32 (a.toInt / 2 ^ n))) ∧
    (∀ (rd rn : RegLow) (imm : BitVec 5),
      let a := s.reg (lowReg rn)
      let n := imm.toNat
      LogicDone s (exec (.lslImm16 rd rn imm) s) 2 (lowReg rd) (BitVec.ofNat 32 (a.toNat * 2 ^ n)) ∧
      LogicDone s (exec (.lsrImm16 rd rn imm) s) 2 (lowReg rd) (BitVec.ofNat 32 (a.toNat / 2 ^ n)) ∧
      LogicDone s (exec (.asrImm16 rd rn imm) s) 2 (lowReg rd) (BitVec.ofInt 32 (a.toInt / 2 ^ n))) ∧
    ∀ (rd rn : RegIdx) (imm : BitVec 5),
      let a := s.reg rn
      let n := imm.toNat
      LogicDone s (exec (.lslImm32 rd rn imm) s) 4 rd (BitVec.ofNat 32 (a.toNat * 2 ^ n)) ∧
      LogicDone s (exec (.lsrImm32 rd rn imm) s) 4 rd (BitVec.ofNat 32 (a.toNat / 2 ^ n)) ∧
      LogicDone s (exec (.asrImm32 rd rn imm) s) 4 rd (BitVec.ofInt 32 (a.toInt / 2 ^ n))

/-- R250: each condition code as its expression over the flags, with the default predicates and the carry polarity of
R160. -/
def Obligations.ConditionTable : Prop :=
  ∀ s : State, s.cfg.alu = ruleAlu → s.cfg.conds = ruleConds →
    let holds := fun c => condHolds s.cfg (s.ctl .status) c
    holds .eq = s.flag bitAZ ∧ holds .ne = !s.flag bitAZ ∧
    holds .gtu = (!s.flag bitAZ && s.flag bitAC) ∧ holds .gteu = s.flag bitAC ∧
    holds .lteu = (s.flag bitAZ || !s.flag bitAC) ∧ holds .ltu = !s.flag bitAC ∧
    holds .gt = (!s.flag bitAZ && (s.flag bitAV == s.flag bitAN)) ∧ holds .gte = (s.flag bitAV == s.flag bitAN) ∧
    holds .lt = (s.flag bitAV != s.flag bitAN) ∧ holds .lte = (s.flag bitAZ || (s.flag bitAV != s.flag bitAN)) ∧
    holds .beq = s.flag bitBZ ∧ holds .bne = !s.flag bitBZ ∧ holds .blt = (s.flag bitBN && !s.flag bitBZ) ∧
    holds .blte = (s.flag bitBN || s.flag bitBZ) ∧ holds .always = true ∧ holds .link = true

/-- What the conditions read as after `sub x, a, b` (R250, last column), in each of its four forms: the unsigned and
the signed order of the two operands. -/
def Obligations.ConditionsCompareAfterSub : Prop :=
  ∀ (s : State) (i : Instr) (a b : Word), s.cfg.alu = ruleAlu → s.cfg.conds = ruleConds →
    (∃ rd rn rm : RegLow, i = .sub16 rd rn rm ∧ a = s.reg (lowReg rn) ∧ b = s.reg (lowReg rm)) ∨
      (∃ rd rn rm : RegIdx, i = .sub32 rd rn rm ∧ a = s.reg rn ∧ b = s.reg rm) ∨
      (∃ (rd rn : RegLow) (imm : BitVec 3), i = .subImm16 rd rn imm ∧ a = s.reg (lowReg rn) ∧
        b = BitVec.ofInt 32 imm.toInt) ∨
      (∃ (rd rn : RegIdx) (imm : BitVec 11), i = .subImm32 rd rn imm ∧ a = s.reg rn ∧ b = BitVec.ofInt 32 imm.toInt) →
    Next (exec i s) fun t =>
      let holds := fun c => condHolds t.cfg (t.ctl .status) c
      (holds .eq = true ↔ a = b) ∧ (holds .ne = true ↔ a ≠ b) ∧
      (holds .gtu = true ↔ b.toNat < a.toNat) ∧ (holds .gteu = true ↔ b.toNat ≤ a.toNat) ∧
      (holds .lteu = true ↔ a.toNat ≤ b.toNat) ∧ (holds .ltu = true ↔ a.toNat < b.toNat) ∧
      (holds .gt = true ↔ b.toInt < a.toInt) ∧ (holds .gte = true ↔ b.toInt ≤ a.toInt) ∧
      (holds .lt = true ↔ a.toInt < b.toInt) ∧ (holds .lte = true ↔ a.toInt ≤ b.toInt)

/-! ## Moves (41_move.md) -/

/-- MOV immediate, MOVT and MOV<cond> (R200 to R202): the immediate zero-extended; the high half written, the low one
kept; the move where the condition holds, nothing but the advance where it does not, and a failed check for
condition 15 (K3). -/
def Obligations.MovesComplete : Prop :=
  ∀ s : State,
    (∀ (rd : RegLow) (imm : BitVec 8), Next (exec (.movImm16 rd imm) s) fun t =>
      (t.reg (lowReg rd)).toNat = imm.toNat ∧ Completed s t (s.pc + 2) [(lowReg rd).toNat]) ∧
    (∀ (rd : RegIdx) (imm : BitVec 16), Next (exec (.movImm32 rd imm) s) fun t =>
      (t.reg rd).toNat = imm.toNat ∧ Completed s t (s.pc + 4) [rd.toNat]) ∧
    (∀ (rd : RegIdx) (imm : BitVec 16), Next (exec (.movt rd imm) s) fun t =>
      (t.reg rd).toNat = imm.toNat * 2 ^ 16 + (s.reg rd).toNat % 2 ^ 16 ∧ Completed s t (s.pc + 4) [rd.toNat]) ∧
    (∀ (cond : Cond) (rd rn : RegLow), cond ≠ .link → Next (exec (.movCond16 rd rn cond) s) fun t =>
      if condHolds s.cfg (s.ctl .status) cond then
        t.reg (lowReg rd) = s.reg (lowReg rn) ∧ Completed s t (s.pc + 2) [(lowReg rd).toNat]
      else Completed s t (s.pc + 2) []) ∧
    (∀ (cond : Cond) (rd rn : RegIdx), cond ≠ .link → Next (exec (.movCond32 rd rn cond) s) fun t =>
      if condHolds s.cfg (s.ctl .status) cond then
        t.reg rd = s.reg rn ∧ Completed s t (s.pc + 4) [rd.toNat]
      else Completed s t (s.pc + 4) []) ∧
    (∀ rd rn : RegLow, (Instr.movCond16 rd rn .link).check = false) ∧
    ∀ rd rn : RegIdx, (Instr.movCond32 rd rn .link).check = false

/-- MOVTS (R204, R402, R404): a memory-mapped write of word `256 + 64 * group + sn` of the own window, with the effect
that `WindowWriteEffects` gives it; the program counter and the loop counter are taken from what the write left. A
MOVTS into a reserved range halts the core. For a write of PC or of the loop registers this is the literal reading of
U5 (log entry 20). -/
def Obligations.MovtsCompletes : Prop :=
  ∀ (s : State) (i : Instr) (width : Nat) (group : BitVec 2) (sn : BitVec 6) (rd : RegIdx), configOk s.cfg = true →
    (i = .movts32 rd sn group ∧ width = 4 ∨
      ∃ (rl : RegLow) (sl : BitVec 3), i = .movts16 rl sl ∧ width = 2 ∧ group = 0 ∧ rd = lowReg rl ∧ sn = lowReg sl) →
    let k := 256 + 64 * group.toNat + sn.toNat
    let y := s.me.writeWord k (s.reg rd)
    (reserved s.cfg (s.cfg.window.base + 4 * k) = false → Next (exec i s) fun t =>
      (∀ j, j ∉ [Ctl.index .pc, Ctl.index .lc] → t.me.word j = y.word j) ∧
      (s.pc = y.ctl .le ∧ y.ctl .lc ≠ 0 → t.pc = y.ctl .ls ∧ t.ctl .lc = y.ctl .lc - 1) ∧
      (¬(s.pc = y.ctl .le ∧ y.ctl .lc ≠ 0) → t.pc = y.ctl .pc + BitVec.ofNat 32 width ∧ t.ctl .lc = y.ctl .lc) ∧
      t.me.mem = s.me.mem ∧ t.ext = s.ext ∧ (∀ c, c ≠ s.self → t.core c = s.core c) ∧ SameOutcome s t ∧
      t.me.notes = .validInstruction :: s.me.notes) ∧
    (reserved s.cfg (s.cfg.window.base + 4 * k) = true →
      Next (exec i s) fun t => Halted s t (.invalidMemoryAccess (BitVec.ofNat 32 (s.cfg.window.base + 4 * k)) true))

/-- MOVFS (R205): a read of word `256 + 64 * group + sn` of the own window, without side effect; from a reserved range
it halts the core. -/
def Obligations.MovfsCompletes : Prop :=
  ∀ (s : State) (i : Instr) (width : Nat) (group : BitVec 2) (sn : BitVec 6) (rd : RegIdx), configOk s.cfg = true →
    (i = .movfs32 rd sn group ∧ width = 4 ∨
      ∃ (rl : RegLow) (sl : BitVec 3), i = .movfs16 rl sl ∧ width = 2 ∧ group = 0 ∧ rd = lowReg rl ∧ sn = lowReg sl) →
    let k := 256 + 64 * group.toNat + sn.toNat
    (reserved s.cfg (s.cfg.window.base + 4 * k) = false → Next (exec i s) fun t =>
      t.reg rd = s.me.word k ∧ Completed s t (s.pc + BitVec.ofNat 32 width) [rd.toNat]) ∧
    (reserved s.cfg (s.cfg.window.base + 4 * k) = true →
      Next (exec i s) fun t => Halted s t (.invalidMemoryAccess (BitVec.ofNat 32 (s.cfg.window.base + 4 * k)) false))

/-! ## Loads and stores (42_load_store.md) -/

/-- The seven load forms (R220 to R227): from an aligned address that translates, memory or register window, `rd`
receives the bytes there, least significant first and zero-extended, a doubleword's second word goes to `rd + 1`, and a
postmodify form then writes its base; nothing else changes. The address and the updated base are those of R226 and
R227. -/
def Obligations.LoadsComplete : Prop :=
  ∀ (s : State) (i : Instr) (x : Transfer), configOk s.cfg = true → i.WellFormed → loadForm s i = some x →
    x.ea.toNat % sizeBytes x.size = 0 → translate s.cfg s.self x.ea ≠ .invalid → ¬ baseLoaded x →
    Addressed s i x ∧ Next (exec i s) fun t =>
      (∀ j, j < 4 → (t.reg x.rd).extractLsb' (8 * j) 8 =
        if j < sizeBytes x.size then s.byteOf ((translate s.cfg s.self x.ea).plus j) else 0) ∧
      (x.size = .double → ∀ j, j < 4 → (t.reg (pairReg x.rd)).extractLsb' (8 * j) 8 =
        s.byteOf ((translate s.cfg s.self x.ea).plus (4 + j))) ∧
      BaseUpdated x t ∧
      Completed s t (s.pc + BitVec.ofNat 32 x.width) ((loadRegs x).map BitVec.toNat ++ baseWords x)

/-- The seven store forms (R228 to R231) to memory outside the register windows: the bytes from the address on receive
the low bytes of `x[rd]`, then of `x[rd + 1]`, the base of a postmodify form is written, and every other byte of memory
and every other register is unchanged. The address and the updated base are those of R226 and R227. -/
def Obligations.StoresComplete : Prop :=
  ∀ (s : State) (i : Instr) (x : Transfer) (g : Target), configOk s.cfg = true → storeForm s i = some x →
    x.ea.toNat % sizeBytes x.size = 0 → translate s.cfg s.self x.ea = g → g.plain s.cfg.window = true →
    Addressed s i x ∧ Next (exec i s) fun t =>
      (∀ j, j < sizeBytes x.size → t.byteOf (g.plus j) = storedByte s x j) ∧ BaseUpdated x t ∧
      CompletedStore s t (s.pc + BitVec.ofNat 32 x.width) (baseWords x) (inRun g (sizeBytes x.size))

/-- A store into a register window (R221, R234), of whatever core: a word is one memory-mapped write, a doubleword two,
one after the other, each with its register's side effect (`WindowWriteEffects`); a byte or halfword onto a word without
side effect is one plain write (`NarrowWindowWrites`). The base's update and the advance follow: only PC and LC of the
executing core and the base register differ from what the writes leave. That a store onto the own PC, LC, LE or LS is
judged by the values it left is the literal reading of U5 (log entry 20), and the order of a doubleword's two writes is
log entry 30. -/
def Obligations.StoresIntoWindows : Prop :=
  ∀ (s : State) (i : Instr) (x : Transfer) (c : CoreId) (off : Nat), configOk s.cfg = true → storeForm s i = some x →
    x.ea.toNat % sizeBytes x.size = 0 → translate s.cfg s.self x.ea = .core c off → inWindow s.cfg.window off = true →
    (x.size = .byte ∨ x.size = .half → windowIndex s.cfg.window off ∉ [Ctl.index .status, Ctl.index .fstatus,
      Ctl.index .ilatSt, Ctl.index .ilatCl, Ctl.index .debugCmd, Ctl.index .resetCore]) →
    ∃ m, (if x.size = .double then ∃ u, memWrite s s.self x.ea .b4 (s.reg x.rd) = .ok u ∧
            memWrite u s.self (x.ea + 4) .b4 (s.reg (pairReg x.rd)) = .ok m
          else memWrite s s.self x.ea (sizeAccess x.size) (s.reg x.rd) = .ok m) ∧ Next (exec i s) fun t =>
      (∀ d k, d ≠ s.self ∨ k ∉ Ctl.index .pc :: Ctl.index .lc :: baseWords x →
        (t.core d).word k = (m.core d).word k) ∧
      BaseUpdated x t ∧ (∀ d, (t.core d).mem = (s.core d).mem ∧ (t.core d).idle = (s.core d).idle) ∧ t.ext = s.ext ∧
      (s.pc = m.ctl .le ∧ m.ctl .lc ≠ 0 → t.pc = m.ctl .ls ∧ t.ctl .lc = m.ctl .lc - 1) ∧
      (¬(s.pc = m.ctl .le ∧ m.ctl .lc ≠ 0) →
        t.pc = m.pc + BitVec.ofNat 32 x.width ∧ t.ctl .lc = m.ctl .lc)

/-- A misaligned load, store or TESTSET is abandoned and the software exception latched (R333): for the address's
alignment whatever it translates to, with no register, base or byte of memory written. -/
def Obligations.MisalignedIsAbandoned : Prop :=
  (∀ (s : State) (i : Instr) (x : Transfer),
    (loadForm s i = some x ∧ ¬ baseLoaded x) ∨ storeForm s i = some x → x.ea.toNat % sizeBytes x.size ≠ 0 →
    Next (exec i s) fun t => Abandoned s t x.width) ∧
  ∀ (s : State) (rd rn rm : RegIdx) (sub : Bool), (indexAddr s rn rm sub).toNat % 4 ≠ 0 →
    Next (exec (.testset rd rn rm sub) s) fun t => Abandoned s t 4

/-- A load or store whose aligned address translates to nothing halts the core with the address and the direction of
the access, and changes nothing else (R332). -/
def Obligations.InvalidAddressHalts : Prop :=
  ∀ (s : State) (i : Instr) (x : Transfer), x.ea.toNat % sizeBytes x.size = 0 →
    translate s.cfg s.self x.ea = .invalid →
    (loadForm s i = some x → ¬ baseLoaded x → Next (exec i s) fun t => Halted s t (.invalidMemoryAccess x.ea false)) ∧
    (storeForm s i = some x → Next (exec i s) fun t => Halted s t (.invalidMemoryAccess x.ea true))

/-- The stops of the family: a postmodify load into its own base register is refused (R227), and so is a store narrower
than a word onto a side-effect register (R47). That the first is refused whatever its address, a misaligned or invalid
one included, is the model's choice: the refusal comes before the access (log entry 13). -/
def Obligations.RefusedTransfers : Prop :=
  (∀ (s : State) (i : Instr) (x : Transfer), loadForm s i = some x → baseLoaded x →
    exec i s = .refused .postmodifyLoadIntoBase) ∧
  ∀ (s : State) (i : Instr) (x : Transfer) (c : CoreId) (off : Nat), storeForm s i = some x →
    x.size = .byte ∨ x.size = .half → x.ea.toNat % sizeBytes x.size = 0 →
    translate s.cfg s.self x.ea = .core c off → inWindow s.cfg.window off = true →
    windowIndex s.cfg.window off ∈ [Ctl.index .status, Ctl.index .fstatus, Ctl.index .ilatSt, Ctl.index .ilatCl,
      Ctl.index .debugCmd, Ctl.index .resetCore] → exec i s = .refused .narrowSideEffectWrite

/-- TESTSET (R102, R104, R236). On an aligned word of another core's memory `rd` receives the old word, and the word
becomes the old `x[rd]` if it was zero; nothing else changes. On anything but another core's local memory, its own
memory under either address included, the core halts with the write flag; a word of another core's register window is
refused. A misaligned address abandons the instruction, whatever it translates to. The address is `x[rn]` plus or minus
`x[rm]` (R226). -/
def Obligations.TestsetCompletes : Prop :=
  ∀ (s : State) (rd rn rm : RegIdx) (sub : Bool), configOk s.cfg = true →
    indexAddr s rn rm sub = offsetBy (s.reg rn) (s.reg rm).toNat sub ∧
    ((indexAddr s rn rm sub).toNat % 4 ≠ 0 → Next (exec (.testset rd rn rm sub) s) fun t => Abandoned s t 4) ∧
    ((indexAddr s rn rm sub).toNat % 4 = 0 →
      (∀ (c : CoreId) (off : Nat), translate s.cfg s.self (indexAddr s rn rm sub) = .core c off → c ≠ s.self →
        (inWindow s.cfg.window off = false → Next (exec (.testset rd rn rm sub) s) fun t =>
          (∀ j, j < 4 → (t.reg rd).extractLsb' (8 * j) 8 = s.byteOf (.core c (off + j))) ∧
          (t.reg rd = 0 → ∀ j, j < 4 → t.byteOf (.core c (off + j)) = (s.reg rd).extractLsb' (8 * j) 8) ∧
          (t.reg rd ≠ 0 → ∀ j, j < 4 → t.byteOf (.core c (off + j)) = s.byteOf (.core c (off + j))) ∧
          CompletedStore s t (s.pc + 4) [rd.toNat] (inRun (.core c off) 4)) ∧
        (inWindow s.cfg.window off = true → exec (.testset rd rn rm sub) s = .refused .testSetInWindow)) ∧
      ((∀ c off, translate s.cfg s.self (indexAddr s rn rm sub) = .core c off → c = s.self) →
        Next (exec (.testset rd rn rm sub) s) fun t =>
          Halted s t (.invalidMemoryAccess (indexAddr s rn rm sub) true)))

/-! ## Branches and jumps (43_branch.md) -/

/-- B<cond> (R251, R252): taken to its own address plus twice the signed displacement, with R14 set to the address
after it for condition 15; not taken, nothing but the advance. R14 and that address are the defaults of parameters
(R258). -/
def Obligations.BranchesComplete : Prop :=
  ∀ (s : State) (i : Instr) (width : Nat) (cond : Cond) (disp : Int), s.cfg.link = ruleLink →
    (∃ imm : BitVec 8, i = .bcond16 imm cond ∧ width = 2 ∧ disp = imm.toInt) ∨
      (∃ imm : BitVec 24, i = .bcond32 imm cond ∧ width = 4 ∧ disp = imm.toInt) →
    Next (exec i s) fun t =>
      if condHolds s.cfg (s.ctl .status) cond then
        if cond = .link then t.reg 14 = s.pc + BitVec.ofNat 32 width ∧
          Completed s t (s.pc + BitVec.ofInt 32 (2 * disp)) [14]
        else Completed s t (s.pc + BitVec.ofInt 32 (2 * disp)) []
      else Completed s t (s.pc + BitVec.ofNat 32 width) []

/-- JR and JALR (R253, R254): to the register's value as read before the link register is written, all 32 bits of it,
with the default link register and link value. -/
def Obligations.JumpsComplete : Prop :=
  ∀ s : State, s.cfg.link = ruleLink →
    (∀ rn : RegLow, Next (exec (.jr16 rn) s) fun t => Completed s t (s.reg (lowReg rn)) []) ∧
    (∀ rn : RegIdx, Next (exec (.jr32 rn) s) fun t => Completed s t (s.reg rn) []) ∧
    (∀ rn : RegLow, Next (exec (.jalr16 rn) s) fun t =>
      t.reg 14 = s.pc + 2 ∧ Completed s t (s.reg (lowReg rn)) [14]) ∧
    ∀ rn : RegIdx, Next (exec (.jalr32 rn) s) fun t => t.reg 14 = s.pc + 4 ∧ Completed s t (s.reg rn) [14]

/-! ## Floating point (44_float.md) -/

/-- FADD, FSUB and FMUL in float mode (R274, R276 to R279): `rd` receives the result of `FpArith` of
the version (R287), the float flags are those of R274, and the software exception is latched exactly when an enabled
event occurred. -/
def Obligations.FloatArithmeticCompletes : Prop :=
  ∀ s : State, arithMode s = 0 →
    let r := fun op a b => fpArith s.cfg.fp s.cfg.arch op ((s.ctl .config).getLsbD bitRmode) false a b 0
    (∀ rd rn rm : RegLow,
      let a := s.reg (lowReg rn)
      let b := s.reg (lowReg rm)
      FloatArithDone s (exec (.fadd16 rd rn rm) s) 2 (lowReg rd) (r .fadd a b) ∧
      FloatArithDone s (exec (.fsub16 rd rn rm) s) 2 (lowReg rd) (r .fsub a b) ∧
      FloatArithDone s (exec (.fmul16 rd rn rm) s) 2 (lowReg rd) (r .fmul a b)) ∧
    ∀ rd rn rm : RegIdx,
      let a := s.reg rn
      let b := s.reg rm
      FloatArithDone s (exec (.fadd32 rd rn rm) s) 4 rd (r .fadd a b) ∧
      FloatArithDone s (exec (.fsub32 rd rn rm) s) 4 rd (r .fsub a b) ∧
      FloatArithDone s (exec (.fmul32 rd rn rm) s) 4 rd (r .fmul a b)

/-- FMADD and FMSUB in float mode (R280, R281): `rd` plus or minus `rn * rm`, for some sign of a NaN result, which
R275 leaves open (a free value, log entry 8); nothing is said of which. -/
def Obligations.FusedArithmeticCompletes : Prop :=
  ∀ s : State, arithMode s = 0 →
    let r := fun op sign a b c => fpArith s.cfg.fp s.cfg.arch op ((s.ctl .config).getLsbD bitRmode) sign a b c
    (∀ rd rn rm : RegLow,
      let a := s.reg (lowReg rn)
      let b := s.reg (lowReg rm)
      let c := s.reg (lowReg rd)
      (∃ sign, FloatArithDone s (exec (.fmadd16 rd rn rm) s) 2 (lowReg rd) (r .fmadd sign a b c)) ∧
      ∃ sign, FloatArithDone s (exec (.fmsub16 rd rn rm) s) 2 (lowReg rd) (r .fmsub sign a b c)) ∧
    ∀ rd rn rm : RegIdx,
      let a := s.reg rn
      let b := s.reg rm
      let c := s.reg rd
      (∃ sign, FloatArithDone s (exec (.fmadd32 rd rn rm) s) 4 rd (r .fmadd sign a b c)) ∧
      ∃ sign, FloatArithDone s (exec (.fmsub32 rd rn rm) s) 4 rd (r .fmsub sign a b c)

/-- FLOAT, FIX and FABS in float mode (R274, R276, R282 to R284, R287): `rd` receives the result of the version, the
float flags are those of R274, BV being kept by FLOAT and FIX where that is configured (U25), and FIX alone can latch
the software exception. With the default numerics FABS gives the operand without its sign, a denormal read as zero. -/
def Obligations.FloatUnaryCompletes : Prop :=
  ∀ (s : State) (i : Instr) (width : Nat) (rd rn : RegIdx), arithMode s = 0 →
    let trunc := (s.ctl .config).getLsbD bitRmode
    let a := s.reg rn
    let keptBv := !(s.cfg.fp.options s.cfg.arch).convClearsBv && s.flag bitBV
    let same := fun bv bis raised t (r : Word) (z n : Bool) =>
      FloatDone s t width rd r z n bv bis (s.flag bitBVS) (s.flag bitBUS) raised
    ((i = .float32 rd rn rn ∧ width = 4 ∨
        ∃ d n : RegLow, i = .float16 d n n ∧ width = 2 ∧ rd = lowReg d ∧ rn = lowReg n) →
      Next (exec i s) fun t => let r := floatOf s.cfg.fp s.cfg.arch trunc a
        same keptBv (s.flag bitBIS) false t r (decide (r.extractLsb' 0 31 = 0)) (r.getLsbD 31)) ∧
    ((i = .fix32 rd rn rn ∧ width = 4 ∨
        ∃ d n : RegLow, i = .fix16 d n n ∧ width = 2 ∧ rd = lowReg d ∧ rn = lowReg n) →
      Next (exec i s) fun t => let r := fixOf s.cfg.fp s.cfg.arch trunc a
        same keptBv (s.flag bitBIS || r.invalid) (r.invalid && (s.ctl .config).getLsbD bitIen) t r.word
          (decide (r.word = 0)) (r.word.getLsbD 31)) ∧
    ((i = .fabs32 rd rn rn ∧ width = 4 ∨
        ∃ d n : RegLow, i = .fabs16 d n n ∧ width = 2 ∧ rd = lowReg d ∧ rn = lowReg n) →
      Next (exec i s) fun t => let r := absOf s.cfg.fp s.cfg.arch trunc a
        same false (s.flag bitBIS) false t r (decide (r.extractLsb' 0 31 = 0)) false ∧
        (s.cfg.fp = ruleFp → r = if isDenormal a then 0#32 else a &&& 0x7FFFFFFF#32))

/-- A float instruction in another arithmetic mode is refused (R271, U22). -/
def Obligations.IntegerModeIsRefused : Prop :=
  ∀ s : State, arithMode s ≠ 0 →
    (∀ rd rn rm : RegLow, ∀ i ∈ [Instr.fadd16 rd rn rm, .fsub16 rd rn rm, .fmul16 rd rn rm, .fmadd16 rd rn rm,
      .fmsub16 rd rn rm, .float16 rd rn rm, .fix16 rd rn rm, .fabs16 rd rn rm],
      exec i s = .refused .arithModeNotFloat) ∧
    ∀ rd rn rm : RegIdx, ∀ i ∈ [Instr.fadd32 rd rn rm, .fsub32 rd rn rm, .fmul32 rd rn rm, .fmadd32 rd rn rm,
      .fmsub32 rd rn rm, .float32 rd rn rm, .fix32 rd rn rm, .fabs32 rd rn rm],
      exec i s = .refused .arithModeNotFloat

/-- What a proof about float results may rest on (R285 (a) to (f), R287), for either version and every instance of the
numerics, the paths on which a version differs included: no arithmetic result is a denormal; a denormal operand behaves
as the zero of its sign; a NaN operand gives a quiet NaN, for two operands of the sign that is the XOR of theirs, and on
the path of 44_float.md the invalid event; FIX of a NaN is one of the two bounds, of a denormal 0, and of any other
number in range the nearest or the truncated integer by RMODE. That the paths a version differs on are bounded so, and
free otherwise, is the model's choice (log entry 35). -/
def Obligations.FloatResultsAreSafe : Prop :=
  (∀ (n : FpNumerics) (arch : Arch) (op : FpArithOp) (trunc free : Bool) (a b c : Word),
    let r := fpArith n arch op trunc free a b c
    isDenormal r.word = false ∧
    r = fpArith n arch op trunc free (flushIn a) (flushIn b) (flushIn c) ∧
    (isNaN a = true ∨ isNaN b = true ∨ (isNaN c = true ∧ (op = .fmadd ∨ op = .fmsub)) →
      fpExp r.word = 255 ∧ r.word.getLsbD 22 = true ∧
      (op = .fadd ∨ op = .fsub ∨ op = .fmul → fpSign r.word = (fpSign a != fpSign b)) ∧
      (op ∉ (n.options arch).otherArith → r.invalid = true))) ∧
  ∀ (n : FpNumerics) (arch : Arch) (trunc : Bool) (a : Word),
    let r := (fixOf n arch trunc a).word
    (isNaN a = true → r = 0x7FFFFFFF#32 ∨ r = 0x80000000#32) ∧
    (isDenormal a = true → r = 0) ∧
    (fpExp a ≠ 255 → isDenormal a = false → ∃ k : Int,
      (trunc = true → k.natAbs * 2 ^ 149 ≤ fpMag a ∧ fpMag a < (k.natAbs + 1) * 2 ^ 149) ∧
      (trunc = false → 2 * (k * 2 ^ 149 - fpValue a).natAbs ≤ 2 ^ 149) ∧
      (k ≠ 0 → (k < 0 ↔ fpSign a = true)) ∧
      (-2 ^ 31 ≤ k → k < 2 ^ 31 → r = BitVec.ofInt 32 k))

/-- `Round` (R273) is a rounding to 24 significant bits: truncation gives the largest such number not above, rounding to
nearest a nearest one, and of two equally near the one whose significand is even. -/
def Obligations.RoundingIsNearest : Prop :=
  ∀ n : Nat,
    (∃ m e, m < 2 ^ 24 ∧ roundMag true n = m * 2 ^ e) ∧
    (∃ m e, m ≤ 2 ^ 24 ∧ roundMag false n = m * 2 ^ e ∧ 2 * ((n : Int) - (m * 2 ^ e : Nat)).natAbs ≤ 2 ^ e ∧
      (2 * ((n : Int) - (m * 2 ^ e : Nat)).natAbs = 2 ^ e → m % 2 = 0)) ∧
    roundMag true n ≤ n ∧
    ∀ m e : Nat, m < 2 ^ 24 →
      (m * 2 ^ e ≤ n → m * 2 ^ e ≤ roundMag true n) ∧
      ((n : Int) - roundMag false n).natAbs ≤ ((n : Int) - (m * 2 ^ e : Nat)).natAbs

/-- FADD, FSUB, FMUL, FMADD and FMSUB with the default numerics, which are the same on both versions (R273, R275, R280,
R281, R287). Of finite operands: with the exact result of the flushed operands as an integer of units of 2^-298, the
word returned stands for its one rounding where that is in the normal range; at 2^128 and above it is an overflow, below
2^-126 an underflow to zero; an exact zero has the sign IEEE 754 gives it. Of operands that are not NaN, one of them
infinite: a defined result is the signed infinity with the overflow event; infinities that cancel, and a zero times an
infinity, give a quiet NaN with the invalid event, for two operands of the sign that is the XOR of theirs. -/
def Obligations.FiniteArithmeticIsRounded : Prop :=
  (∀ (arch : Arch) (trunc nanSign : Bool) (a b c : Word), fpExp a ≠ 255 → fpExp b ≠ 255 → fpExp c ≠ 255 →
    let res := fun op => fpArith ruleFp arch op trunc nanSign a b c
    ∀ p ∈ [(res .fadd, (fpValue (flushIn a) + fpValue (flushIn b)) * 2 ^ 149, fpSign a && fpSign b),
        (res .fsub, (fpValue (flushIn a) - fpValue (flushIn b)) * 2 ^ 149, fpSign a && !fpSign b),
        (res .fmul, fpValue (flushIn a) * fpValue (flushIn b), fpSign a != fpSign b),
        (res .fmadd, fpValue (flushIn c) * 2 ^ 149 + fpValue (flushIn a) * fpValue (flushIn b),
          fpSign c && (fpSign a != fpSign b)),
        (res .fmsub, fpValue (flushIn c) * 2 ^ 149 - fpValue (flushIn a) * fpValue (flushIn b),
          fpSign c && (fpSign a == fpSign b))],
      let r := roundMag trunc p.2.1.natAbs
      (p.2.1 ≠ 0 → 2 ^ 172 ≤ r → r < 2 ^ 426 → fpExp p.1.word ≠ 255 ∧
        fpValue p.1.word * 2 ^ 149 = p.2.1.sign * r ∧ p.1.invalid = false ∧ p.1.overflow = false ∧
        p.1.underflow = false) ∧
      (p.2.1 ≠ 0 → 2 ^ 426 ≤ r → p.1.overflow = true ∧ p.1.invalid = false ∧ p.1.underflow = false ∧
        fpSign p.1.word = decide (p.2.1 < 0) ∧
        p.1.word &&& 0x7FFFFFFF#32 = if trunc then 0x7F7FFFFF#32 else 0x7F800000#32) ∧
      (p.2.1 ≠ 0 → r < 2 ^ 172 → p.1.underflow = true ∧ p.1.invalid = false ∧ p.1.overflow = false ∧
        p.1.word = if p.2.1 < 0 then 0x80000000#32 else 0#32) ∧
      (p.2.1 = 0 → p.1.word = (if p.2.2 then 0x80000000#32 else 0#32) ∧ p.1.invalid = false ∧
        p.1.overflow = false ∧ p.1.underflow = false)) ∧
  ∀ (arch : Arch) (trunc nanSign negate : Bool) (a b c : Word), isNaN a = false → isNaN b = false → isNaN c = false →
    let res := fun op => fpArith ruleFp arch op trunc nanSign a b c
    let fma := res (if negate then .fmsub else .fmadd)
    let infinite := fun (r : FpResult) (sign : Bool) => r =
      { word := if sign then 0xFF800000#32 else 0x7F800000#32, invalid := false, overflow := true, underflow := false }
    let undefined := fun (r : FpResult) (sign : Bool) => fpExp r.word = 255 ∧ r.word.getLsbD 22 = true ∧
      fpSign r.word = sign ∧ r.invalid = true ∧ r.overflow = false ∧ r.underflow = false
    let zero := isZero (flushIn a) = true ∨ isZero (flushIn b) = true
    let xor := fpSign a != fpSign b
    (isInf a = true → (isInf b = true → fpSign a = fpSign b) → infinite (res .fadd) (fpSign a)) ∧
    (isInf b = true → (isInf a = true → fpSign a = fpSign b) → infinite (res .fadd) (fpSign b)) ∧
    (isInf a = true → isInf b = true → fpSign a ≠ fpSign b → undefined (res .fadd) true) ∧
    (isInf a = true → (isInf b = true → fpSign a ≠ fpSign b) → infinite (res .fsub) (fpSign a)) ∧
    (isInf b = true → (isInf a = true → fpSign a ≠ fpSign b) → infinite (res .fsub) (!fpSign b)) ∧
    (isInf a = true → isInf b = true → fpSign a = fpSign b → undefined (res .fsub) false) ∧
    (isInf a = true ∨ isInf b = true →
      (zero → undefined (res .fmul) xor) ∧ (¬ zero → infinite (res .fmul) xor) ∧
      (zero → undefined fma nanSign) ∧
      (¬ zero → isInf c = true → fpSign c ≠ (xor != negate) → undefined fma nanSign) ∧
      (¬ zero → (isInf c = true → fpSign c = (xor != negate)) → infinite fma (xor != negate))) ∧
    (isInf a = false → isInf b = false → isInf c = true → infinite fma (fpSign c))

/-- The conversions' values with the default numerics, on either version (R282, R283, R285 (d) to (f), R287): FLOAT stands for
the rounded integer; FIX of a NaN or an infinity saturates by its sign, of a denormal is 0, and of any other number is
the nearest integer, ties to even, or the truncated one, saturated. -/
def Obligations.ConversionValues : Prop :=
  (∀ (arch : Arch) (trunc : Bool) (a : Word), fpExp (floatOf ruleFp arch trunc a) ≠ 255 ∧
    fpValue (floatOf ruleFp arch trunc a) * 2 ^ 149 = a.toInt.sign * roundMag trunc (a.toInt.natAbs * 2 ^ 298)) ∧
  ∀ (arch : Arch) (trunc : Bool) (a : Word),
    (fpExp a = 255 → fixOf ruleFp arch trunc a =
      { word := if fpSign a then 0x80000000#32 else 0x7FFFFFFF#32, invalid := true, overflow := false,
        underflow := false }) ∧
    (isDenormal a = true → (fixOf ruleFp arch trunc a).word = 0 ∧ (fixOf ruleFp arch trunc a).invalid = false) ∧
    (fpExp a ≠ 255 → isDenormal a = false → ∃ n : Int,
      (trunc = true → n.natAbs * 2 ^ 149 ≤ fpMag a ∧ fpMag a < (n.natAbs + 1) * 2 ^ 149) ∧
      (trunc = false → 2 * (n * 2 ^ 149 - fpValue a).natAbs ≤ 2 ^ 149 ∧
        (2 * (n * 2 ^ 149 - fpValue a).natAbs = 2 ^ 149 → n % 2 = 0)) ∧
      (n ≠ 0 → (n < 0 ↔ fpSign a = true)) ∧
      (fixOf ruleFp arch trunc a).word = BitVec.ofInt 32 (max (-2 ^ 31) (min (2 ^ 31 - 1) n)) ∧
      (fixOf ruleFp arch trunc a).invalid = decide (n < -2 ^ 31 ∨ 2 ^ 31 - 1 < n))

/-! ## System instructions (45_system.md) -/

/-- NOP, IDLE, BKPT, GIE, GID and SWI (R300, R301, R304, R306, R307, R313). -/
def Obligations.PlainSystemCompletes : Prop :=
  ∀ s : State,
    (Next (exec .nop s) fun t => Completed s t (s.pc + 2) []) ∧
    (Next (exec .gie s) fun t => t.flag bitGid = false ∧ (∀ b, b ≠ bitGid → t.flag b = s.flag b) ∧
      Completed s t (s.pc + 2) [Ctl.index .status]) ∧
    (Next (exec .gid s) fun t => t.flag bitGid = true ∧ (∀ b, b ≠ bitGid → t.flag b = s.flag b) ∧
      Completed s t (s.pc + 2) [Ctl.index .status]) ∧
    (Next (exec .bkpt s) fun t =>
      (∀ b, (t.ctl .debugStatus).getLsbD b = (b == 0 || (s.ctl .debugStatus).getLsbD b)) ∧
      Completed s t (s.pc + 2) [Ctl.index .debugStatus]) ∧
    (Next (exec .idle s) fun t => t.me.idle = true ∧ t.me.passed = s.me.passed ∧ t.me.failed = s.me.failed ∧
      t.me.exitCode = s.me.exitCode ∧ t.me.notes = .validInstruction :: s.me.notes ∧ Advanced s t (s.pc + 2) ∧
      Frame s t [Ctl.index .pc, Ctl.index .lc]) ∧
    ∀ num : BitVec 6, Next (exec (.swi num) s) fun t =>
      LatchSet (s.ctl .ilat) (t.ctl .ilat) 8 ∧ CauseWritten s.cfg (s.ctl .status) (t.ctl .status) .softwareInterrupt ∧
      Completed s t (s.pc + 2) [Ctl.index .ilat, Ctl.index .status]

/-- SYNC and MBKPT (R305, R308): level 0 latched, or the debug-halt flag set, on every core of the grid, and nothing
else changed anywhere. That the loop over the cores is one step is the model's choice (log entry 4). -/
def Obligations.CrossCoreSignalsComplete : Prop :=
  ∀ s : State,
    (Next (exec .sync s) fun t =>
      (∀ c, inGrid s.cfg c = true → LatchSet ((s.core c).ctl .ilat) ((t.core c).ctl .ilat) 0) ∧
      (∀ c, inGrid s.cfg c = false → (t.core c).ctl .ilat = (s.core c).ctl .ilat) ∧
      Broadcast s t (s.pc + 2) [.ilat]) ∧
    Next (exec .mbkpt s) fun t =>
      (∀ c, inGrid s.cfg c = true → ∀ b, ((t.core c).ctl .debugStatus).getLsbD b =
        (b == 0 || ((s.core c).ctl .debugStatus).getLsbD b)) ∧
      (∀ c, inGrid s.cfg c = false → (t.core c).ctl .debugStatus = (s.core c).ctl .debugStatus) ∧
      Broadcast s t (s.pc + 2) [.debugStatus]

/-- WAND (R309): the own flag is set, and exactly if then every core of the grid has its flag set, the wired-AND
interrupt is latched on every one of them. That the scan is one step is the model's choice (log entry 4). -/
def Obligations.WiredAndCompletes : Prop :=
  ∀ s : State, inGrid s.cfg s.self = true → Next (exec .wand s) fun t =>
    let everyOther := ∀ c, inGrid s.cfg c = true → c ≠ s.self → ((s.core c).ctl .status).getLsbD bitWand = true
    t.flag bitWand = true ∧ (∀ b, b ≠ bitWand → t.flag b = s.flag b) ∧
    (∀ c, c ≠ s.self → (t.core c).ctl .status = (s.core c).ctl .status) ∧
    (everyOther → ∀ c, inGrid s.cfg c = true →
      LatchSet ((s.core c).ctl .ilat) ((t.core c).ctl .ilat) s.cfg.irqWand) ∧
    (everyOther → ∀ c, inGrid s.cfg c = false → (t.core c).ctl .ilat = (s.core c).ctl .ilat) ∧
    (¬ everyOther → ∀ c, (t.core c).ctl .ilat = (s.core c).ctl .ilat) ∧
    Broadcast s t (s.pc + 2) [.status, .ilat]

/-- RTI (R310): the lowest pending level is cleared if there is one, GID is cleared, the program counter is IRET. -/
def Obligations.ReturnFromInterruptCompletes : Prop :=
  ∀ s : State, Next (exec .rti s) fun t =>
    (∀ i, i < 9 → (s.ctl .ipend).getLsbD i = true → (∀ j, j < i → (s.ctl .ipend).getLsbD j = false) →
      ∀ b, (t.ctl .ipend).getLsbD b = (b != i && (s.ctl .ipend).getLsbD b)) ∧
    ((∀ i, i < 9 → (s.ctl .ipend).getLsbD i = false) → t.ctl .ipend = s.ctl .ipend) ∧
    t.flag bitGid = false ∧ (∀ b, b ≠ bitGid → t.flag b = s.flag b) ∧
    Completed s t (s.ctl .iret) [Ctl.index .ipend, Ctl.index .status]

/-- TRAP (R311, R312): 3 records R0 as the exit code, 4 and 5 record pass and fail, each clearing ACTIVE; 7 does
nothing where no kernel declares SystemCalls; where one does, the kernel's writes are made, each as the core it names
(R372), R0 to R3 receive what it returns, and the core goes on, unless the spec defines no effect for one of the writes
(R47) or one names no core of the grid; every other code is refused (U26). What the kernel answers is a free value, and
the order of its effects, and what becomes of a write that faults, is log entry 9. -/
def Obligations.TrapCompletes : Prop :=
  ∀ s : State,
    (∀ n : BitVec 6, n = 3 ∨ n = 4 ∨ n = 5 → Next (exec (.trap n) s) fun t =>
      t.me.exitCode = (if n = 3 then s.reg 0 else s.me.exitCode) ∧ t.me.passed = (n == 4 || s.me.passed) ∧
      t.me.failed = (n == 5 || s.me.failed) ∧ t.me.idle = s.me.idle ∧ t.flag bitActive = false ∧
      (∀ b, b ≠ bitActive → t.flag b = s.flag b) ∧ t.me.notes = .validInstruction :: s.me.notes ∧
      Advanced s t (s.pc + 2) ∧ Frame s t [Ctl.index .pc, Ctl.index .lc, Ctl.index .status]) ∧
    (s.cfg.kernel = .none ∨ s.cfg.kernel = .debugging →
      Next (exec (.trap 7) s) fun t => Completed s t (s.pc + 2) []) ∧
    (s.cfg.kernel = .systemCalls ∨ s.cfg.kernel = .all →
      let a := syscallReply s
      let writes := kernelWrites a.writes { s with fresh := s.fresh + 1 }
      (∃ m, writes = .ok m ∧ Next (exec (.trap 7) s) fun t =>
        t.reg 0 = a.b0 ∧ t.reg 1 = a.b1 ∧ t.reg 2 = a.b2 ∧ t.reg 3 = a.b3 ∧
        (∀ k, k ∉ [0, 1, 2, 3, Ctl.index .pc, Ctl.index .lc] → t.me.word k = m.me.word k) ∧
        (∀ c, c ≠ s.self → t.core c = m.core c) ∧ t.me.mem = m.me.mem ∧ t.ext = m.ext ∧ SameOutcome s t ∧
        (s.pc = m.ctl .le ∧ m.ctl .lc ≠ 0 → t.pc = m.ctl .ls ∧ t.ctl .lc = m.ctl .lc - 1) ∧
        (¬(s.pc = m.ctl .le ∧ m.ctl .lc ≠ 0) → t.pc = m.pc + 2 ∧ t.ctl .lc = m.ctl .lc)) ∨
      ∃ r, (r = .narrowSideEffectWrite ∨ r = .argumentError) ∧ writes = .refused r ∧
        exec (.trap 7) s = .refused r) ∧
    (∀ (w : KernelWrite) (ws : List KernelWrite), inGrid s.cfg w.core = true →
      (∀ m, memWrite s w.core w.addr w.size w.value = .ok m → kernelWrites (w :: ws) s = kernelWrites ws m) ∧
      (aligned w.addr (accessBytes w.size) = false ∨ translate s.cfg w.core w.addr = .invalid →
        kernelWrites (w :: ws) s = kernelWrites ws s)) ∧
    ∀ n : BitVec 6, n ≠ 3 → n ≠ 4 → n ≠ 5 → n ≠ 7 → exec (.trap n) s = .refused (.trapCode n)

/-! ## Reset and the rules of the whole machine -/

/-- The state after reset (R390, R391, R393): every core halted at program counter 0, in user mode with interrupts
enabled and nothing latched, every register but COREID and every byte of memory 0, for every configuration. -/
def Obligations.ResetState : Prop :=
  ∀ cfg : Config,
    (∀ c k, k ≠ Ctl.index .coreId → ((State.resetFor cfg).core c).word k = 0) ∧
    (∀ c off, inWindow cfg.window off = false → (State.resetFor cfg).byteOf (.core c off) = 0) ∧
    (∀ off, (State.resetFor cfg).byteOf (.external off) = 0) ∧
    (∀ c, ((State.resetFor cfg).core c).idle = false ∧ ((State.resetFor cfg).core c).passed = false ∧
      ((State.resetFor cfg).core c).failed = false ∧ ((State.resetFor cfg).core c).exitCode = 0) ∧
    (State.resetFor cfg).halting = false

/-- The invariant holds right after reset, whatever the parameters, if they meet the spec's constraints, and those of
the default run do. -/
def Obligations.ResetMeetsInvariant : Prop :=
  State.reset.Inv ∧ ∀ cfg : Config, configOk cfg = true → (State.resetFor cfg).Inv

/-- Every step keeps the invariant: the cores stay those of the grid, and every memory stays canonical and in its
bounds, whatever instruction, fault, interrupt, host or DMA act the step is. How the bytes are held is the model's
(log entry 1). -/
def Obligations.StepKeepsInvariant : Prop :=
  ∀ s t : State, s.Inv → step s = .next t → t.Inv

/-- No step changes the parameters (R61). -/
def Obligations.ParametersAreNotState : Prop :=
  ∀ s t : State, step s = .next t → t.cfg = s.cfg

/-- The idle flag (R55, R349): a step sets it on a core only by running on that core IDLE or an extension instruction
that returns the signal `Idle` (R145), and clears it on a core only by
delivering an interrupt in that core's tick. -/
def Obligations.IdleFlagRule : Prop :=
  ∀ (s t : State) (c : CoreId), step s = .next t →
    ((s.core c).idle = false → (t.core c).idle = true → RunsNext s c .idle ∨ RunsExtIdle s c) ∧
    ((s.core c).idle = true → (t.core c).idle = false →
      TicksNext s c ∧ ¬ Quiet (s.core c) ∧ ∃ i, Entered s.cfg (s.core c) (t.core c) i)

/-- The test-outcome values are set only by trap instructions of their own core (R56): the exit code by TRAP 3, passed
by TRAP 4, failed by TRAP 5, and neither flag is ever cleared. -/
def Obligations.OutcomesOnlyByTrap : Prop :=
  ∀ (s t : State) (c : CoreId), step s = .next t →
    ((t.core c).exitCode ≠ (s.core c).exitCode → RunsNext s c (.trap 3)) ∧
    ((t.core c).passed ≠ (s.core c).passed → RunsNext s c (.trap 4) ∧ (t.core c).passed = true) ∧
    ((t.core c).failed ≠ (s.core c).failed → RunsNext s c (.trap 5) ∧ (t.core c).failed = true)

/-- The flags (R52, R53). Sticky bits: no instruction's flag update clears AVS, BIS, BVS or BUS; only a store, a MOVTS
and the kernel's writes in a TRAP can. The other instructions that are neither of the integer nor of the float family
leave every condition flag and sticky bit as it is. -/
def Obligations.FlagsAreWrittenByTheirInstructions : Prop :=
  ∀ (i : Instr) (s t : State), writesMemoryAtWill i = false → exec i s = .next t →
    (∀ b ∈ [bitAVS, bitBIS, bitBVS, bitBUS], s.flag b = true → t.flag b = true) ∧
    (writesFlags i = false → ∀ b ∈ [bitAZ, bitAN, bitAC, bitAV, bitBZ, bitBN, bitBV, bitAVS, bitBIS, bitBVS, bitBUS],
      t.flag b = s.flag b)

end Statements
end

