-- ==== Sys2Proof/Laws/Maps.lean ====
section
/-! SUPPORT. Laws of the sparse maps (Machine/Sparse.lean): read after write, and writes keep the canonical form. -/

namespace Sys2Proof.Machine

theorem mapGet_mapPut {α : Type} (d : α) (m : List (Nat × α)) (k j : Nat) (v : α) :
    mapGet d (mapPut m k v) j = if j = k then v else mapGet d m j := by
  induction m with
  | nil => rfl
  | cons p m ih =>
    obtain ⟨a, x⟩ := p
    by_cases h1 : k < a
    · simp only [mapPut, if_pos h1, mapGet]
    · by_cases h2 : k = a
      · subst h2
        simp only [mapPut, lt_irrefl, if_false, if_true, mapGet]
        by_cases hj : j = k <;> simp [hj]
      · simp only [mapPut, if_neg h1, if_neg h2, mapGet, ih]
        by_cases hj : j = k
        · subst hj; simp [h2]
        · simp [hj]

theorem mapGet_mapErase {α : Type} (d : α) (m : List (Nat × α)) (k j : Nat) :
    mapGet d (mapErase m k) j = if j = k then d else mapGet d m j := by
  induction m with
  | nil => simp [mapErase, mapGet]
  | cons p m ih =>
    obtain ⟨a, x⟩ := p
    by_cases h : k = a
    · subst h
      simp only [mapErase, if_true, ih, mapGet]
      by_cases hj : j = k <;> simp [hj]
    · simp only [mapErase, if_neg h, mapGet, ih]
      by_cases hj : j = k
      · subst hj; simp [h]
      · simp [hj]

/-- A read after a write: the value written at its own key, the old value at every other. -/
theorem mapGet_mapSet {n : Nat} (m : List (Nat × BitVec n)) (k j : Nat) (v : BitVec n) :
    mapGet 0 (mapSet m k v) j = if j = k then v else mapGet 0 m j := by
  unfold mapSet
  split
  · next h => rw [mapGet_mapErase, h]
  · rw [mapGet_mapPut]

/-! ## The canonical form -/

theorem keysAbove_of_lt {α : Type} {a b : Nat} (hab : a < b) {m : List (Nat × α)} (h : keysAbove b m = true) :
    keysAbove a m = true := by
  induction m with
  | nil => rfl
  | cons p m ih =>
    obtain ⟨c, x⟩ := p
    simp only [keysAbove, Bool.and_eq_true, decide_eq_true_eq] at h ⊢
    exact ⟨lt_trans hab h.1, ih h.2⟩

theorem keysAbove_mapPut {α : Type} {a k : Nat} (hak : a < k) (v : α) {m : List (Nat × α)}
    (h : keysAbove a m = true) : keysAbove a (mapPut m k v) = true := by
  induction m with
  | nil => simp [mapPut, keysAbove, hak]
  | cons p m ih =>
    obtain ⟨c, x⟩ := p
    simp only [keysAbove, Bool.and_eq_true, decide_eq_true_eq] at h
    by_cases h1 : k < c
    · simp [mapPut, h1, keysAbove, hak, h.1, h.2]
    · by_cases h2 : k = c
      · subst h2; simp [mapPut, keysAbove, h.1, h.2]
      · simp [mapPut, h1, h2, keysAbove, h.1, ih h.2]

theorem keysAbove_mapErase {α : Type} {a k : Nat} {m : List (Nat × α)} (h : keysAbove a m = true) :
    keysAbove a (mapErase m k) = true := by
  induction m with
  | nil => rfl
  | cons p m ih =>
    obtain ⟨c, x⟩ := p
    simp only [keysAbove, Bool.and_eq_true, decide_eq_true_eq] at h
    by_cases h1 : k = c
    · subst h1; simp [mapErase, ih h.2]
    · simp [mapErase, h1, keysAbove, h.1, ih h.2]

theorem keysRising_mapPut {α : Type} (k : Nat) (v : α) {m : List (Nat × α)} (h : keysRising m = true) :
    keysRising (mapPut m k v) = true := by
  induction m with
  | nil => rfl
  | cons p m ih =>
    obtain ⟨c, x⟩ := p
    simp only [keysRising, Bool.and_eq_true] at h
    by_cases h1 : k < c
    · simp [mapPut, h1, keysRising, keysAbove, keysAbove_of_lt h1 h.1, h.1, h.2]
    · by_cases h2 : k = c
      · subst h2; simp [mapPut, keysRising, h.1, h.2]
      · have h3 : c < k := by omega
        simp [mapPut, h1, h2, keysRising, keysAbove_mapPut h3 v h.1, ih h.2]

theorem keysRising_mapErase {α : Type} (k : Nat) {m : List (Nat × α)} (h : keysRising m = true) :
    keysRising (mapErase m k) = true := by
  induction m with
  | nil => rfl
  | cons p m ih =>
    obtain ⟨c, x⟩ := p
    simp only [keysRising, Bool.and_eq_true] at h
    by_cases h1 : k = c
    · subst h1; simp [mapErase, ih h.2]
    · simp [mapErase, h1, keysRising, keysAbove_mapErase h.1, ih h.2]

/-- What a map holds after `mapPut`: the new entry, or an old one. -/
theorem mem_mapPut {α : Type} {m : List (Nat × α)} {k : Nat} {v : α} {p : Nat × α} (h : p ∈ mapPut m k v) :
    p = (k, v) ∨ p ∈ m := by
  induction m with
  | nil => simpa [mapPut] using h
  | cons q m ih =>
    obtain ⟨c, x⟩ := q
    by_cases h1 : k < c
    · simpa [mapPut, h1] using h
    · by_cases h2 : k = c
      · subst h2
        simp only [mapPut, h1, if_false, if_true, List.mem_cons] at h
        rcases h with h | h
        · exact .inl h
        · exact .inr (List.mem_cons_of_mem _ h)
      · simp only [mapPut, h1, h2, if_false, List.mem_cons] at h
        rcases h with h | h
        · exact .inr (h ▸ List.mem_cons_self)
        · rcases ih h with h | h
          · exact .inl h
          · exact .inr (List.mem_cons_of_mem _ h)

theorem mem_mapErase {α : Type} {m : List (Nat × α)} {k : Nat} {p : Nat × α} (h : p ∈ mapErase m k) : p ∈ m := by
  induction m with
  | nil => simp [mapErase] at h
  | cons q m ih =>
    obtain ⟨c, x⟩ := q
    by_cases h1 : k = c
    · simp only [mapErase, h1, if_true] at h
      exact List.mem_cons_of_mem _ (ih (h1 ▸ h))
    · simp only [mapErase, h1, if_false, List.mem_cons] at h
      rcases h with h | h
      · exact h ▸ List.mem_cons_self
      · exact List.mem_cons_of_mem _ (ih h)

theorem mem_mapSet {n : Nat} {m : List (Nat × BitVec n)} {k : Nat} {v : BitVec n} {p : Nat × BitVec n}
    (h : p ∈ mapSet m k v) : p = (k, v) ∨ p ∈ m := by
  unfold mapSet at h
  split at h
  · exact .inr (mem_mapErase h)
  · exact mem_mapPut h

/-- A write keeps the canonical form. -/
theorem mapWf_mapSet {n : Nat} {m : List (Nat × BitVec n)} (k : Nat) (v : BitVec n) (h : mapWf m = true) :
    mapWf (mapSet m k v) = true := by
  simp only [mapWf, Bool.and_eq_true, List.all_eq_true, bne_iff_ne] at h ⊢
  unfold mapSet
  split
  · exact ⟨keysRising_mapErase k h.1, fun p hp => h.2 p (mem_mapErase hp)⟩
  · next hv =>
    refine ⟨keysRising_mapPut k v h.1, fun p hp => ?_⟩
    rcases mem_mapPut hp with rfl | hp
    · exact hv
    · exact h.2 p hp

theorem mapWf_nil {n : Nat} : mapWf ([] : List (Nat × BitVec n)) = true := rfl

/-- Putting at a key that is listed keeps the keys. -/
theorem keys_mapPut {α : Type} {m : List (Nat × α)} {k : Nat} (v : α) (hr : keysRising m = true)
    (hk : k ∈ m.map Prod.fst) : (mapPut m k v).map Prod.fst = m.map Prod.fst := by
  induction m with
  | nil => simp at hk
  | cons p m ih =>
    obtain ⟨c, x⟩ := p
    simp only [keysRising, Bool.and_eq_true] at hr
    have above : ∀ {l : List (Nat × α)} {j : Nat}, keysAbove c l = true → j ∈ l.map Prod.fst → c < j := by
      intro l
      induction l with
      | nil => intro j _ hj; simp at hj
      | cons q l il =>
        intro j hl hj
        simp only [keysAbove, Bool.and_eq_true, decide_eq_true_eq] at hl
        simp only [List.map_cons, List.mem_cons] at hj
        rcases hj with rfl | hj
        · exact hl.1
        · exact il hl.2 hj
    by_cases h2 : k = c
    · subst h2; simp [mapPut]
    · have hk' : k ∈ m.map Prod.fst := by simpa [h2] using hk
      have h3 := above hr.1 hk'
      simp [mapPut, h2, not_lt.mpr (le_of_lt h3), ih hr.2 hk']

/-- The value at a listed key is a listed value. -/
theorem mapGet_mem {α : Type} (d : α) {m : List (Nat × α)} {k : Nat} (hk : k ∈ m.map Prod.fst) :
    (k, mapGet d m k) ∈ m := by
  induction m with
  | nil => simp at hk
  | cons p m ih =>
    obtain ⟨c, x⟩ := p
    by_cases h : k = c
    · subst h; simp [mapGet]
    · have : k ∈ m.map Prod.fst := by simpa [h] using hk
      simp [mapGet, h, ih this]

/-! ## Bits of a word -/

/-- One bit replaced: that bit is the new one, every other stays. -/
theorem getLsbD_setBit (w : Word) (i j : Nat) (b : Bool) (hi : i < 32) :
    (setBit w i b).getLsbD j = if j = i then b else w.getLsbD j := by
  have one : (1#32 <<< i).getLsbD j = decide (j = i) := by
    simp only [BitVec.getLsbD_shiftLeft, BitVec.getLsbD_one]
    by_cases h : j = i
    · subst h; simp [hi]
    · by_cases h2 : j < i
      · simp [h, h2]
      · have : ¬ (j - i = 0) := by omega
        simp [h, this]
  unfold setBit
  cases b
  · simp only [Bool.false_eq_true, if_false, BitVec.getLsbD_and, BitVec.getLsbD_not, one]
    by_cases h : j = i
    · simp [h]
    · by_cases hj : j < 32
      · simp only [hj, h, decide_true, decide_false, Bool.not_false, Bool.and_true, if_false]
      · have h1 : w.getLsbD j = false := BitVec.getLsbD_of_ge w j (by omega)
        simp only [h1, Bool.false_and, ite_self]
  · simp only [if_true, BitVec.getLsbD_or, one]
    by_cases h : j = i
    · simp only [h, decide_true, Bool.or_true, if_true]
    · simp only [h, decide_false, Bool.or_false, if_false]

theorem getLsbD_fieldMask (lo len j : Nat) (hl : len ≤ 32) :
    (fieldMask lo len).getLsbD j = (decide (j < 32) && decide (lo ≤ j) && decide (j < lo + len)) := by
  unfold fieldMask
  simp only [BitVec.getLsbD_shiftLeft, BitVec.getLsbD_ushiftRight, BitVec.getLsbD_allOnes]
  by_cases h1 : j < 32 <;> by_cases h2 : lo ≤ j <;> by_cases h3 : j < lo + len <;>
    simp [h1, h2, h3] <;> omega

/-- A field replaced: its bits come from the low bits of the value, every other bit stays. -/
theorem getLsbD_setField (w v : Word) (lo len j : Nat) (hl : lo + len ≤ 32) :
    (setField w lo len v).getLsbD j = if lo ≤ j ∧ j < lo + len then v.getLsbD (j - lo) else w.getLsbD j := by
  unfold setField
  simp only [BitVec.getLsbD_or, BitVec.getLsbD_and, BitVec.getLsbD_not, BitVec.getLsbD_shiftLeft,
    getLsbD_fieldMask lo len j (by omega)]
  by_cases h1 : j < 32
  · by_cases h2 : lo ≤ j <;> by_cases h3 : j < lo + len <;> simp [h1, h2, h3]
  · have : ∀ u : Word, u.getLsbD j = false := fun u => BitVec.getLsbD_of_ge u j (by omega)
    have h4 : ¬(lo ≤ j ∧ j < lo + len) := by omega
    simp [h1, h4, this]

end Sys2Proof.Machine
end

