-- ==== Sys2Proof/Laws/State.lean ====
section
/-! SUPPORT. Laws of the state's updates: what each named write of a core or of the machine reads as afterwards. -/

namespace Sys2Proof.Machine

/-! ## Core numbers -/

theorem CoreId.key_inj {c d : CoreId} (h : c.key = d.key) : c = d := by
  obtain ⟨r, k⟩ := c
  obtain ⟨r', k'⟩ := d
  simp only [CoreId.key] at h
  have h1 := k.isLt
  have h2 := k'.isLt
  simp only [CoreId.mk.injEq]
  exact ⟨BitVec.eq_of_toNat_eq (by omega), BitVec.eq_of_toNat_eq (by omega)⟩

theorem CoreId.key_eq_iff {c d : CoreId} : c.key = d.key ↔ c = d := ⟨CoreId.key_inj, fun h => h ▸ rfl⟩

/-! ## Word indices of the register window -/

theorem Ctl.index_inj {r q : Ctl} (h : r.index = q.index) : r = q := by
  cases r <;> cases q <;> simp_all [Ctl.index, groupIndex] <;> omega

theorem Ctl.index_eq_iff {r q : Ctl} : r.index = q.index ↔ r = q := ⟨Ctl.index_inj, fun h => h ▸ rfl⟩

theorem Ctl.index_ge (r : Ctl) : 256 ≤ r.index := by
  cases r <;> simp [Ctl.index, groupIndex] <;> omega

theorem Ctl.index_lt (r : Ctl) : r.index < 512 := by
  cases r <;> simp [Ctl.index, groupIndex] <;> omega

theorem regIdx_lt (i : RegIdx) : i.toNat < 64 := i.isLt

theorem Ctl.index_ne_reg (r : Ctl) (i : RegIdx) : r.index ≠ i.toNat := by
  have := r.index_ge
  have := i.isLt
  omega

/-! ## One core: its window, its memory -/

@[simp] theorem ECore.setWord_mem (x : ECore) (k : Nat) (v : Word) : (x.setWord k v).mem = x.mem := rfl
@[simp] theorem ECore.setWord_idle (x : ECore) (k : Nat) (v : Word) : (x.setWord k v).idle = x.idle := rfl
@[simp] theorem ECore.setWord_passed (x : ECore) (k : Nat) (v : Word) : (x.setWord k v).passed = x.passed := rfl
@[simp] theorem ECore.setWord_failed (x : ECore) (k : Nat) (v : Word) : (x.setWord k v).failed = x.failed := rfl
@[simp] theorem ECore.setWord_exitCode (x : ECore) (k : Nat) (v : Word) : (x.setWord k v).exitCode = x.exitCode := rfl
@[simp] theorem ECore.setWord_notes (x : ECore) (k : Nat) (v : Word) : (x.setWord k v).notes = x.notes := rfl
@[simp] theorem ECore.setCtl_mem (x : ECore) (r : Ctl) (v : Word) : (x.setCtl r v).mem = x.mem := rfl
@[simp] theorem ECore.setCtl_idle (x : ECore) (r : Ctl) (v : Word) : (x.setCtl r v).idle = x.idle := rfl
@[simp] theorem ECore.setCtl_passed (x : ECore) (r : Ctl) (v : Word) : (x.setCtl r v).passed = x.passed := rfl
@[simp] theorem ECore.setCtl_failed (x : ECore) (r : Ctl) (v : Word) : (x.setCtl r v).failed = x.failed := rfl
@[simp] theorem ECore.setCtl_exitCode (x : ECore) (r : Ctl) (v : Word) : (x.setCtl r v).exitCode = x.exitCode := rfl
@[simp] theorem ECore.setCtl_notes (x : ECore) (r : Ctl) (v : Word) : (x.setCtl r v).notes = x.notes := rfl

/-- A word of the window after a write of one. -/
theorem ECore.word_setWord (x : ECore) (k j : Nat) (v : Word) :
    (x.setWord k v).word j = if j = k then v else x.word j := mapGet_mapSet _ _ _ _

theorem ECore.word_setCtl (x : ECore) (r : Ctl) (j : Nat) (v : Word) :
    (x.setCtl r v).word j = if j = r.index then v else x.word j := mapGet_mapSet _ _ _ _

/-- A control register after a write of one. -/
theorem ECore.ctl_setCtl (x : ECore) (r q : Ctl) (v : Word) :
    (x.setCtl r v).ctl q = if q = r then v else x.ctl q := by
  simp only [ECore.ctl, ECore.word_setCtl, Ctl.index_eq_iff]

@[simp] theorem ECore.ctl_setCtl_same (x : ECore) (r : Ctl) (v : Word) : (x.setCtl r v).ctl r = v := by
  rw [ECore.ctl_setCtl, if_pos rfl]

theorem ECore.ctl_setCtl_ne (x : ECore) {r q : Ctl} (v : Word) (h : q ≠ r) : (x.setCtl r v).ctl q = x.ctl q := by
  rw [ECore.ctl_setCtl, if_neg h]

/-- A read of local memory outside the window reads only `mem`. -/
theorem ECore.load_plain {x y : ECore} {w : RegWindow} {off : Nat} (size : Access) (hw : inWindow w off = false) (hm : x.mem = y.mem) :
    x.load w off size = y.load w off size := by
  simp only [ECore.load, hw, hm, Bool.false_eq_true, if_false]

/-- A read of local memory inside the window reads only the word it lies in. -/
theorem ECore.load_window {x y : ECore} {w : RegWindow} {off : Nat} (size : Access) (hw : inWindow w off = true)
    (hm : x.word (windowIndex w off) = y.word (windowIndex w off)) : x.load w off size = y.load w off size := by
  simp only [ECore.load, hw, if_true, hm]

theorem ECore.byte_plain {x y : ECore} {w : RegWindow} {off : Nat} (hw : inWindow w off = false) (hm : x.mem = y.mem) :
    x.byte w off = y.byte w off := by simp only [ECore.byte, ECore.load_plain .b1 hw hm]

/-! ## Replacing a core -/

@[simp] theorem State.setCore_cfg (s : State) (c : CoreId) (x : ECore) : (s.setCore c x).cfg = s.cfg := rfl
@[simp] theorem State.setCore_ext (s : State) (c : CoreId) (x : ECore) : (s.setCore c x).ext = s.ext := rfl
@[simp] theorem State.setCore_halting (s : State) (c : CoreId) (x : ECore) : (s.setCore c x).halting = s.halting := rfl
@[simp] theorem State.setCore_self (s : State) (c : CoreId) (x : ECore) : (s.setCore c x).self = s.self := rfl
@[simp] theorem State.setCore_agenda (s : State) (c : CoreId) (x : ECore) : (s.setCore c x).agenda = s.agenda := rfl
@[simp] theorem State.setCore_fresh (s : State) (c : CoreId) (x : ECore) : (s.setCore c x).fresh = s.fresh := rfl

/-- A core after one is replaced. -/
theorem State.core_setCore (s : State) (c d : CoreId) (x : ECore) :
    (s.setCore c x).core d = if d = c then x else s.core d := by
  simp only [State.core, State.setCore, mapGet_mapPut, CoreId.key_eq_iff]

@[simp] theorem State.core_setCore_same (s : State) (c : CoreId) (x : ECore) : (s.setCore c x).core c = x := by
  rw [State.core_setCore, if_pos rfl]

theorem State.core_setCore_ne (s : State) {c d : CoreId} (x : ECore) (h : d ≠ c) :
    (s.setCore c x).core d = s.core d := by rw [State.core_setCore, if_neg h]

/-! ## Changing the executing core -/

@[simp] theorem State.modMe_cfg (s : State) (f : ECore → ECore) : (s.modMe f).cfg = s.cfg := rfl
@[simp] theorem State.modMe_ext (s : State) (f : ECore → ECore) : (s.modMe f).ext = s.ext := rfl
@[simp] theorem State.modMe_halting (s : State) (f : ECore → ECore) : (s.modMe f).halting = s.halting := rfl
@[simp] theorem State.modMe_self (s : State) (f : ECore → ECore) : (s.modMe f).self = s.self := rfl
@[simp] theorem State.modMe_agenda (s : State) (f : ECore → ECore) : (s.modMe f).agenda = s.agenda := rfl
@[simp] theorem State.modMe_fresh (s : State) (f : ECore → ECore) : (s.modMe f).fresh = s.fresh := rfl

@[simp] theorem State.me_modMe (s : State) (f : ECore → ECore) : (s.modMe f).me = f s.me :=
  State.core_setCore_same s s.self (f s.me)

theorem State.core_modMe_ne (s : State) (f : ECore → ECore) {c : CoreId} (h : c ≠ s.self) :
    (s.modMe f).core c = s.core c := State.core_setCore_ne s (f s.me) h

@[simp] theorem State.setReg_cfg (s : State) (i : RegIdx) (v : Word) : (s.setReg i v).cfg = s.cfg := rfl
@[simp] theorem State.setReg_ext (s : State) (i : RegIdx) (v : Word) : (s.setReg i v).ext = s.ext := rfl
@[simp] theorem State.setReg_halting (s : State) (i : RegIdx) (v : Word) : (s.setReg i v).halting = s.halting := rfl
@[simp] theorem State.setReg_self (s : State) (i : RegIdx) (v : Word) : (s.setReg i v).self = s.self := rfl
@[simp] theorem State.setReg_agenda (s : State) (i : RegIdx) (v : Word) : (s.setReg i v).agenda = s.agenda := rfl
@[simp] theorem State.setReg_fresh (s : State) (i : RegIdx) (v : Word) : (s.setReg i v).fresh = s.fresh := rfl
@[simp] theorem State.me_setReg (s : State) (i : RegIdx) (v : Word) : (s.setReg i v).me = s.me.setWord i.toNat v :=
  State.me_modMe s _

@[simp] theorem State.setCtl_cfg (s : State) (r : Ctl) (v : Word) : (s.setCtl r v).cfg = s.cfg := rfl
@[simp] theorem State.setCtl_ext (s : State) (r : Ctl) (v : Word) : (s.setCtl r v).ext = s.ext := rfl
@[simp] theorem State.setCtl_halting (s : State) (r : Ctl) (v : Word) : (s.setCtl r v).halting = s.halting := rfl
@[simp] theorem State.setCtl_self (s : State) (r : Ctl) (v : Word) : (s.setCtl r v).self = s.self := rfl
@[simp] theorem State.setCtl_agenda (s : State) (r : Ctl) (v : Word) : (s.setCtl r v).agenda = s.agenda := rfl
@[simp] theorem State.setCtl_fresh (s : State) (r : Ctl) (v : Word) : (s.setCtl r v).fresh = s.fresh := rfl
@[simp] theorem State.me_setCtl (s : State) (r : Ctl) (v : Word) : (s.setCtl r v).me = s.me.setCtl r v :=
  State.me_modMe s _

@[simp] theorem State.setPc_cfg (s : State) (v : Word) : (s.setPc v).cfg = s.cfg := rfl
@[simp] theorem State.setPc_ext (s : State) (v : Word) : (s.setPc v).ext = s.ext := rfl
@[simp] theorem State.setPc_halting (s : State) (v : Word) : (s.setPc v).halting = s.halting := rfl
@[simp] theorem State.setPc_self (s : State) (v : Word) : (s.setPc v).self = s.self := rfl
@[simp] theorem State.setPc_agenda (s : State) (v : Word) : (s.setPc v).agenda = s.agenda := rfl
@[simp] theorem State.setPc_fresh (s : State) (v : Word) : (s.setPc v).fresh = s.fresh := rfl
@[simp] theorem State.me_setPc (s : State) (v : Word) : (s.setPc v).me = s.me.setCtl .pc v := State.me_modMe s _

@[simp] theorem State.setFlag_cfg (s : State) (b : Nat) (v : Bool) : (s.setFlag b v).cfg = s.cfg := rfl
@[simp] theorem State.setFlag_ext (s : State) (b : Nat) (v : Bool) : (s.setFlag b v).ext = s.ext := rfl
@[simp] theorem State.setFlag_halting (s : State) (b : Nat) (v : Bool) : (s.setFlag b v).halting = s.halting := rfl
@[simp] theorem State.setFlag_self (s : State) (b : Nat) (v : Bool) : (s.setFlag b v).self = s.self := rfl
@[simp] theorem State.setFlag_agenda (s : State) (b : Nat) (v : Bool) : (s.setFlag b v).agenda = s.agenda := rfl
@[simp] theorem State.setFlag_fresh (s : State) (b : Nat) (v : Bool) : (s.setFlag b v).fresh = s.fresh := rfl
@[simp] theorem State.me_setFlag (s : State) (b : Nat) (v : Bool) :
    (s.setFlag b v).me = s.me.setCtl .status (setBit (s.me.ctl .status) b v) := State.me_modMe s _

@[simp] theorem State.note_cfg (s : State) (n : Note) : (s.note n).cfg = s.cfg := rfl
@[simp] theorem State.note_ext (s : State) (n : Note) : (s.note n).ext = s.ext := rfl
@[simp] theorem State.note_halting (s : State) (n : Note) : (s.note n).halting = s.halting := rfl
@[simp] theorem State.note_self (s : State) (n : Note) : (s.note n).self = s.self := rfl
@[simp] theorem State.note_agenda (s : State) (n : Note) : (s.note n).agenda = s.agenda := rfl
@[simp] theorem State.note_fresh (s : State) (n : Note) : (s.note n).fresh = s.fresh := rfl
@[simp] theorem State.me_note (s : State) (n : Note) :
    (s.note n).me = { s.me with notes := n :: s.me.notes } := State.me_modMe s _

/-! ## Reading registers and flags after a write -/

theorem State.reg_setReg (s : State) (i j : RegIdx) (v : Word) :
    (s.setReg i v).reg j = if j = i then v else s.reg j := by
  simp only [State.reg, State.me_setReg, ECore.word_setWord, BitVec.toNat_eq]

@[simp] theorem State.reg_setReg_same (s : State) (i : RegIdx) (v : Word) : (s.setReg i v).reg i = v := by
  rw [State.reg_setReg, if_pos rfl]

theorem State.reg_setReg_ne (s : State) {i j : RegIdx} (v : Word) (h : j ≠ i) : (s.setReg i v).reg j = s.reg j := by
  rw [State.reg_setReg, if_neg h]

@[simp] theorem State.ctl_setReg (s : State) (i : RegIdx) (r : Ctl) (v : Word) : (s.setReg i v).ctl r = s.ctl r := by
  simp only [State.ctl, ECore.ctl, State.me_setReg, ECore.word_setWord, r.index_ne_reg i, if_false]

theorem State.ctl_setCtl (s : State) (r q : Ctl) (v : Word) :
    (s.setCtl r v).ctl q = if q = r then v else s.ctl q := by
  simp only [State.ctl, State.me_setCtl, ECore.ctl_setCtl]

@[simp] theorem State.ctl_setCtl_same (s : State) (r : Ctl) (v : Word) : (s.setCtl r v).ctl r = v := by
  rw [State.ctl_setCtl, if_pos rfl]

theorem State.ctl_setCtl_ne (s : State) {r q : Ctl} (v : Word) (h : q ≠ r) : (s.setCtl r v).ctl q = s.ctl q := by
  rw [State.ctl_setCtl, if_neg h]

@[simp] theorem State.reg_setCtl (s : State) (r : Ctl) (i : RegIdx) (v : Word) : (s.setCtl r v).reg i = s.reg i := by
  simp only [State.reg, State.me_setCtl, ECore.word_setCtl, (r.index_ne_reg i).symm, if_false]

@[simp] theorem State.reg_setPc (s : State) (i : RegIdx) (v : Word) : (s.setPc v).reg i = s.reg i :=
  State.reg_setCtl s .pc i v

@[simp] theorem State.reg_note (s : State) (n : Note) (i : RegIdx) : (s.note n).reg i = s.reg i := by
  simp only [State.reg, State.me_note, ECore.word]

@[simp] theorem State.ctl_note (s : State) (n : Note) (r : Ctl) : (s.note n).ctl r = s.ctl r := by
  simp only [State.ctl, ECore.ctl, State.me_note, ECore.word]

theorem State.flag_setFlag (s : State) (b j : Nat) (v : Bool) (hb : b < 32) :
    (s.setFlag b v).flag j = if j = b then v else s.flag j := by
  simp only [State.flag, State.setFlag, State.ctl_setCtl_same, getLsbD_setBit _ _ _ _ hb]

@[simp] theorem State.pc_setPc (s : State) (v : Word) : (s.setPc v).pc = v := State.ctl_setCtl_same s .pc v
@[simp] theorem State.pc_setReg (s : State) (i : RegIdx) (v : Word) : (s.setReg i v).pc = s.pc := State.ctl_setReg s i .pc v
@[simp] theorem State.flag_setReg (s : State) (i : RegIdx) (v : Word) (b : Nat) : (s.setReg i v).flag b = s.flag b := by
  simp only [State.flag, State.ctl_setReg]
@[simp] theorem State.flag_setPc (s : State) (v : Word) (b : Nat) : (s.setPc v).flag b = s.flag b := by
  simp only [State.flag, State.setPc, State.ctl_setCtl, reduceCtorEq, if_false]
@[simp] theorem State.flag_note (s : State) (n : Note) (b : Nat) : (s.note n).flag b = s.flag b := by
  simp only [State.flag, State.ctl_note]

end Sys2Proof.Machine
end

