-- ==== Sys2Proof/Laws/Frame.lean ====
section
/-! SUPPORT. Laws of the frames: they compose, every named write has one, and what the end of an instruction does. -/

namespace Sys2Proof.Machine

/-! ## Frames compose -/

theorem Frame.refl (s : State) (ks : List Nat) : Frame s s ks :=
  ⟨fun _ _ => rfl, fun _ _ => rfl, fun _ _ => rfl, rfl, rfl, rfl, rfl⟩

theorem Frame.trans {s t u : State} {ks js : List Nat} (h : Frame s t ks) (g : Frame t u js) :
    Frame s u (ks ++ js) where
  words k hk := by
    simp only [List.mem_append, not_or] at hk
    rw [g.words k hk.2, h.words k hk.1]
  bytes a ha := by rw [g.bytes a (by rw [h.self, h.cfg]; exact ha), h.bytes a ha]
  others c hc := by rw [g.others c (by rw [h.self]; exact hc), h.others c hc]
  cfg := g.cfg.trans h.cfg
  halting := g.halting.trans h.halting
  self := g.self.trans h.self
  agenda := g.agenda.trans h.agenda

theorem Frame.mono {s t : State} {ks js : List Nat} (h : Frame s t ks) (hs : ks ⊆ js) : Frame s t js :=
  ⟨fun k hk => h.words k fun hm => hk (hs hm), h.bytes, h.others, h.cfg, h.halting, h.self, h.agenda⟩

theorem SameOutcome.refl (s : State) : SameOutcome s s := ⟨rfl, rfl, rfl, rfl⟩

theorem SameOutcome.trans {s t u : State} (h : SameOutcome s t) (g : SameOutcome t u) : SameOutcome s u :=
  ⟨g.idle.trans h.idle, g.passed.trans h.passed, g.failed.trans h.failed, g.exitCode.trans h.exitCode⟩

/-! ## A change of the executing core that keeps its memory -/

/-- A change of the executing core that keeps its memory outside the window, and its window but for `ks`. -/
theorem frame_modMe (s : State) (f : ECore → ECore) (ks : List Nat) (hm : (f s.me).mem = s.me.mem)
    (hw : ∀ k, k ∉ ks → (f s.me).word k = s.me.word k) : Frame s (s.modMe f) ks where
  words k hk := by rw [State.me_modMe]; exact hw k hk
  bytes g hg := by
    cases g with
    | external off => rfl
    | invalid => rfl
    | core c off =>
      simp only [State.byteOf]
      by_cases hc : c = s.self
      · subst hc
        have hin : inWindow s.cfg.window off = false := by simpa [ownWindow] using hg
        show (s.modMe f).me.byte s.cfg.window off = s.me.byte s.cfg.window off
        rw [State.me_modMe]
        exact ECore.byte_plain hin hm
      · rw [State.core_modMe_ne s f hc, State.modMe_cfg]
  others c hc := State.core_modMe_ne s f hc
  cfg := rfl
  halting := rfl
  self := rfl
  agenda := rfl

theorem frame_setReg (s : State) (i : RegIdx) (v : Word) : Frame s (s.setReg i v) [i.toNat] :=
  frame_modMe s _ _ rfl fun k hk => by rw [ECore.word_setWord, if_neg (by simpa using hk)]

theorem frame_setCtl (s : State) (r : Ctl) (v : Word) : Frame s (s.setCtl r v) [r.index] :=
  frame_modMe s _ _ rfl fun k hk => by rw [ECore.word_setCtl, if_neg (by simpa using hk)]

theorem frame_setPc (s : State) (v : Word) : Frame s (s.setPc v) [Ctl.index .pc] := frame_setCtl s .pc v

theorem frame_setFlag (s : State) (b : Nat) (v : Bool) : Frame s (s.setFlag b v) [Ctl.index .status] :=
  frame_setCtl s .status _

theorem frame_note (s : State) (n : Note) : Frame s (s.note n) [] := frame_modMe s _ _ rfl fun _ _ => rfl

theorem outcome_setReg (s : State) (i : RegIdx) (v : Word) : SameOutcome s (s.setReg i v) := by
  constructor <;> simp

theorem outcome_setCtl (s : State) (r : Ctl) (v : Word) : SameOutcome s (s.setCtl r v) := by
  constructor <;> simp

theorem outcome_note (s : State) (n : Note) : SameOutcome s (s.note n) := by
  constructor <;> simp

/-! ## Halting on a fault (R336) -/

theorem halted_halt (s : State) (n : Note) : Halted s (halt s n) n where
  active := by simp only [halt, State.flag_note, State.flag_setFlag _ _ _ _ (show bitActive < 32 by decide), if_true]
  status b hb := by
    simp only [halt, State.flag_note, State.flag_setFlag _ _ _ _ (show bitActive < 32 by decide), hb, if_false]
  notes := by simp [halt]
  frame := (frame_setFlag s bitActive false).trans (frame_note _ n)
  outcome := (outcome_setCtl s .status _).trans (outcome_note _ n)

/-! ## The end of an instruction (R361 to R363) -/

theorem loopWraps_iff (a : Word) (s : State) : loopWraps a s = true ↔ a = s.ctl .le ∧ s.ctl .lc ≠ 0 := by
  simp [loopWraps]

/-- The end of an instruction that returned `Next`. -/
theorem complete_next (width : Nat) (a : Word) (t : State) :
    complete width a .next t =
      (if a = t.ctl .le ∧ t.ctl .lc ≠ 0 then (t.setCtl .lc (t.ctl .lc - 1)).setPc (t.ctl .ls)
        else t.setPc (t.pc + BitVec.ofNat 32 width)).note .validInstruction := by
  simp only [complete, applySignal, applyIdle, loopWraps_iff]

/-- The end of an instruction that returned `None`. -/
theorem complete_none (width : Nat) (a : Word) (t : State) :
    complete width a .none t =
      (if a = t.ctl .le ∧ t.ctl .lc ≠ 0 then (t.setCtl .lc (t.ctl .lc - 1)).setPc (t.ctl .ls) else t).note
        .validInstruction := by
  simp only [complete, applySignal, applyIdle, loopWraps_iff]

/-- The end of an instruction changes at most PC and LC of the window. -/
theorem frame_complete (width : Nat) (a : Word) (sig : Signal) (t : State) :
    Frame t (complete width a sig t) [Ctl.index .pc, Ctl.index .lc] := by
  have hi : Frame t (applyIdle sig t) [] := by
    cases sig with
    | next => exact Frame.refl t []
    | none => exact Frame.refl t []
    | idle => exact frame_modMe t (fun c => { c with idle := true }) _ rfl fun _ _ => rfl
  have ha : ∀ u : State, Frame u (applySignal width a sig u) [Ctl.index .lc, Ctl.index .pc] := by
    intro u
    simp only [applySignal]
    split
    · exact (frame_setCtl u .lc _).trans (frame_setPc _ _)
    · cases sig with
      | none => exact Frame.refl u _
      | next => exact (frame_setPc u _).mono (by simp)
      | idle => exact (frame_setPc u _).mono (by simp)
  exact ((hi.trans (ha _)).trans (frame_note _ _)).mono (by intro k; simp; tauto)

/-- The end of an instruction that is not `Idle` leaves the idle flag and the outcomes. -/
theorem outcome_complete (width : Nat) (a : Word) {sig : Signal} (hs : sig ≠ .idle) (t : State) :
    SameOutcome t (complete width a sig t) := by
  have h1 : applyIdle sig t = t := by cases sig <;> simp_all [applyIdle]
  simp only [complete, h1]
  refine SameOutcome.trans ?_ (outcome_note _ _)
  simp only [applySignal]
  split
  · exact (outcome_setCtl t .lc _).trans (outcome_setCtl _ .pc _)
  · cases sig with
    | none => exact SameOutcome.refl t
    | next => exact outcome_setCtl t .pc _
    | idle => exact absurd rfl hs

theorem notes_complete (width : Nat) (a : Word) (sig : Signal) (t : State) :
    (complete width a sig t).me.notes = .validInstruction :: t.me.notes := by
  have h1 : (applyIdle sig t).me.notes = t.me.notes := by cases sig <;> simp [applyIdle]
  have h2 : ∀ u : State, (applySignal width a sig u).me.notes = u.me.notes := by
    intro u
    simp only [applySignal]
    split
    · simp
    · cases sig <;> simp
  simp only [complete, State.me_note, h2, h1]

@[simp] theorem reg_complete (width : Nat) (a : Word) (sig : Signal) (t : State) (i : RegIdx) :
    (complete width a sig t).reg i = t.reg i :=
  (frame_complete width a sig t).words _ (by
    simp only [List.mem_cons, List.not_mem_nil, or_false, not_or]
    exact ⟨((Ctl.index_ne_reg _ i)).symm, ((Ctl.index_ne_reg _ i)).symm⟩)

theorem ctl_complete (width : Nat) (a : Word) (sig : Signal) (t : State) {r : Ctl} (hp : r ≠ .pc) (hl : r ≠ .lc) :
    (complete width a sig t).ctl r = t.ctl r :=
  (frame_complete width a sig t).words _ (by
    simp only [List.mem_cons, List.not_mem_nil, or_false, not_or, Ctl.index_eq_iff]
    exact ⟨hp, hl⟩)

@[simp] theorem flag_complete (width : Nat) (a : Word) (sig : Signal) (t : State) (b : Nat) :
    (complete width a sig t).flag b = t.flag b := by
  simp only [State.flag, ctl_complete width a sig t (r := .status) (by decide) (by decide)]

/-- An instruction whose execute kept PC, LC, LE, LS and changed only the words `ks`, and that returned `Next`, is
completed. -/
theorem completed_next {s t : State} (width : Nat) {ks : List Nat} (h : Frame s t ks) (ho : SameOutcome s t)
    (hn : t.me.notes = s.me.notes) (hk : ∀ r : Ctl, r ∈ [Ctl.pc, .lc, .le, .ls] → r.index ∉ ks) :
    Completed s (complete width s.pc .next t) (s.pc + BitVec.ofNat 32 width) ks := by
  have e : ∀ r : Ctl, r ∈ [Ctl.pc, .lc, .le, .ls] → t.ctl r = s.ctl r := fun r hr => h.words _ (hk r hr)
  have e1 := e .pc (by simp)
  have e2 := e .lc (by simp)
  have e3 := e .le (by simp)
  have e4 := e .ls (by simp)
  refine ⟨⟨fun hl => ?_, fun hl => ?_⟩, by rw [notes_complete, hn],
    (h.trans (frame_complete width s.pc .next t)).mono (by intro k; simp; tauto),
    ho.trans (outcome_complete width s.pc (by decide) t)⟩
  · have hl' : s.pc = t.ctl .le ∧ t.ctl .lc ≠ 0 := by rw [e3, e2]; exact hl
    rw [complete_next, if_pos hl']
    refine ⟨?_, ?_⟩
    · show (State.note _ _).ctl .pc = _
      rw [State.ctl_note, ← e4]
      exact State.pc_setPc _ _
    · rw [State.ctl_note, ← e2]
      simp only [State.setPc, State.ctl_setCtl, reduceCtorEq, if_false, if_true]
  · have hl' : ¬ (s.pc = t.ctl .le ∧ t.ctl .lc ≠ 0) := by rw [e3, e2]; exact hl
    rw [complete_next, if_neg hl']
    have ep : t.pc = s.pc := e1
    refine ⟨?_, ?_⟩
    · show (State.note _ _).ctl .pc = _
      rw [State.ctl_note, ← ep]
      exact State.pc_setPc _ _
    · rw [State.ctl_note, ← e2]
      simp only [State.setPc, State.ctl_setCtl, reduceCtorEq, if_false]

/-- The same for an instruction that returned `None`, having set the program counter to `pcx`. -/
theorem completed_none {s t : State} (width : Nat) {ks : List Nat} {pcx : Word} (h : Frame s t ks)
    (ho : SameOutcome s t) (hn : t.me.notes = s.me.notes) (hp : t.pc = pcx)
    (hk : ∀ r : Ctl, r ∈ [Ctl.lc, .le, .ls] → r.index ∉ ks) :
    Completed s (complete width s.pc .none t) pcx (ks.filter (· ≠ Ctl.index .pc)) := by
  have e : ∀ r : Ctl, r ∈ [Ctl.lc, .le, .ls] → t.ctl r = s.ctl r := fun r hr => h.words _ (hk r hr)
  have e2 := e .lc (by simp)
  have e3 := e .le (by simp)
  have e4 := e .ls (by simp)
  refine ⟨⟨fun hl => ?_, fun hl => ?_⟩, by rw [notes_complete, hn],
    (h.trans (frame_complete width s.pc .none t)).mono (by intro k; simp; tauto),
    ho.trans (outcome_complete width s.pc (by decide) t)⟩
  · have hl' : s.pc = t.ctl .le ∧ t.ctl .lc ≠ 0 := by rw [e3, e2]; exact hl
    rw [complete_none, if_pos hl']
    refine ⟨?_, ?_⟩
    · show (State.note _ _).ctl .pc = _
      rw [State.ctl_note, ← e4]
      exact State.pc_setPc _ _
    · rw [State.ctl_note, ← e2]
      simp only [State.setPc, State.ctl_setCtl, reduceCtorEq, if_false, if_true]
  · have hl' : ¬ (s.pc = t.ctl .le ∧ t.ctl .lc ≠ 0) := by rw [e3, e2]; exact hl
    rw [complete_none, if_neg hl']
    exact ⟨by show (State.note _ _).ctl .pc = _; rw [State.ctl_note]; exact hp, by rw [State.ctl_note, e2]⟩

/-! ## Latching an interrupt (R343) -/

theorem frame_trigger_self (s : State) (irq : Fin 9) (cause : Option Cause) :
    Frame s (trigger s s.self irq cause) [Ctl.index .ilat, Ctl.index .status] := by
  refine frame_modMe s (fun x => x.latch s.cfg irq cause) _ ?_ fun k hk => ?_
  · cases cause <;> rfl
  · simp only [List.mem_cons, List.not_mem_nil, or_false, not_or] at hk
    cases cause <;> simp only [ECore.latch, ECore.word_setCtl, hk.1, hk.2, if_false]

theorem outcome_trigger_self (s : State) (irq : Fin 9) (cause : Option Cause) :
    SameOutcome s (trigger s s.self irq cause) := by
  have h : (trigger s s.self irq cause).me = s.me.latch s.cfg irq cause := State.core_setCore_same _ _ _
  constructor <;> rw [h] <;> cases cause <;> rfl

/-- The cause field is written and nothing else of STATUS (R345). -/
theorem causeWritten (cfg : Config) (st : Word) (q : Cause) : CauseWritten cfg st (writeCause cfg st q) q := by
  intro b
  have hl : excauseLo + excauseBits cfg.arch ≤ 32 := by cases cfg.arch <;> decide
  simp only [writeCause, getLsbD_setField _ _ _ _ _ hl]
  have he : excauseLo = 16 := rfl
  simp only [he]
  by_cases h : 16 ≤ b ∧ b < 16 + excauseBits cfg.arch
  · rw [if_pos h, if_pos h, BitVec.getLsbD_setWidth]
    have : b - 16 < 32 := by have := h.2; cases cfg.arch <;> simp [excauseBits] at this <;> omega
    simp [this]
  · rw [if_neg h, if_neg h]

/-- What `Trigger` does to a core (R343): the latch bit, the cause field when a cause is given, nothing else. -/
theorem latch_spec (cfg : Config) (x : ECore) (irq : Fin 9) (cause : Option Cause) :
    LatchSet (x.ctl .ilat) ((x.latch cfg irq cause).ctl .ilat) irq ∧
      (∀ q, cause = some q → CauseWritten cfg (x.ctl .status) ((x.latch cfg irq cause).ctl .status) q) ∧
      (cause = none → (x.latch cfg irq cause).ctl .status = x.ctl .status) ∧
      (∀ k, k ≠ Ctl.index .ilat → k ≠ Ctl.index .status → (x.latch cfg irq cause).word k = x.word k) ∧
      (x.latch cfg irq cause).mem = x.mem ∧ (x.latch cfg irq cause).idle = x.idle ∧
      (x.latch cfg irq cause).notes = x.notes := by
  have hb : LatchSet (x.ctl .ilat) (setBit (x.ctl .ilat) irq true) irq := by
    intro b
    rw [getLsbD_setBit _ _ _ _ (by omega)]
    by_cases h : b = irq <;> simp [h]
  cases cause with
  | none =>
    refine ⟨?_, ?_, ?_, ?_, rfl, rfl, rfl⟩
    · simpa [ECore.latch] using hb
    · simp
    · simp [ECore.latch, ECore.ctl_setCtl]
    · intro k h1 _; simp [ECore.latch, ECore.word_setCtl, h1]
  | some q =>
    refine ⟨?_, ?_, ?_, ?_, rfl, rfl, rfl⟩
    · simpa [ECore.latch, ECore.ctl_setCtl] using hb
    · intro q' hq
      cases hq
      simpa [ECore.latch, ECore.ctl_setCtl] using causeWritten cfg (x.ctl .status) q
    · simp
    · intro k h1 h2; simp [ECore.latch, ECore.word_setCtl, h1, h2]

/-- A misaligned access (R333). -/
theorem abandoned_misaligned (s : State) (width : Nat) :
    Abandoned s (complete width s.pc .next (trigger s s.self irqSwExc (some .unalignedAccess))) width := by
  have hme : (trigger s s.self irqSwExc (some .unalignedAccess)).me = s.me.latch s.cfg irqSwExc (some .unalignedAccess) :=
    State.core_setCore_same _ _ _
  obtain ⟨h1, h2, -, -, -, -, h7⟩ := latch_spec s.cfg s.me irqSwExc (some .unalignedAccess)
  refine ⟨?_, ?_, completed_next width (frame_trigger_self s _ _) (outcome_trigger_self s _ _) ?_ ?_⟩
  · rw [ctl_complete _ _ _ _ (by decide) (by decide)]
    show LatchSet _ ((trigger s s.self irqSwExc (some .unalignedAccess)).me.ctl .ilat) 1
    rw [hme]; exact h1
  · rw [ctl_complete _ _ _ _ (by decide) (by decide)]
    show CauseWritten _ _ ((trigger s s.self irqSwExc (some .unalignedAccess)).me.ctl .status) _
    rw [hme]; exact h2 _ rfl
  · rw [hme]; exact h7
  · decide

end Sys2Proof.Machine
end

