-- ==== Sys2Proof/Laws/Memory.lean ====
section
/-! SUPPORT. Laws of the memory operations: bytes of a read and of a write, translation and its bounds, and that every
memory operation keeps the canonical form and the bounds of the state's memories. -/

namespace Sys2Proof.Machine

/-! ## Bytes -/

/-- A byte array after a write: the bytes of the value at the places written, the old ones elsewhere. -/
theorem mapGet_writeBytes (m : List Host.Cell) (off : Nat) (v : Word) (size : Access) (k : Nat) :
    mapGet 0 (writeBytes m off v size) k =
      if off ≤ k ∧ k < off + accessBytes size then v.extractLsb' (8 * (k - off)) 8 else mapGet 0 m k := by
  by_cases h : off ≤ k
  · obtain ⟨d, rfl⟩ := Nat.exists_eq_add_of_le h
    cases size with
    | b1 =>
      simp only [writeBytes, mapGet_mapSet, accessBytes, Nat.add_sub_cancel_left]
      by_cases h0 : d = 0
      · subst h0; simp
      · rw [if_neg (by omega), if_neg (by omega)]
    | b2 =>
      simp only [writeBytes, mapGet_mapSet, accessBytes, Nat.add_sub_cancel_left]
      by_cases h0 : d = 0
      · subst h0; simp
      · by_cases h1 : d = 1
        · subst h1; simp
        · rw [if_neg (by omega), if_neg (by omega), if_neg (by omega)]
    | b4 =>
      simp only [writeBytes, mapGet_mapSet, accessBytes, Nat.add_sub_cancel_left]
      by_cases h0 : d = 0
      · subst h0; simp
      · by_cases h1 : d = 1
        · subst h1; simp
        · by_cases h2 : d = 2
          · subst h2; simp
          · by_cases h3 : d = 3
            · subst h3; simp
            · rw [if_neg (by omega), if_neg (by omega), if_neg (by omega), if_neg (by omega), if_neg (by omega)]
  · cases size <;> simp only [writeBytes, mapGet_mapSet] <;> simp (disch := omega) only [if_neg]

/-- A byte of a wide read: the byte of the array, zero above the access. -/
theorem readBytes_byte (m : List Host.Cell) (off : Nat) (size : Access) {j : Nat} (hj : j < 4) :
    (readBytes m off size).extractLsb' (8 * j) 8 = if j < accessBytes size then mapGet 0 m (off + j) else 0 := by
  have hj' : j = 0 ∨ j = 1 ∨ j = 2 ∨ j = 3 := by omega
  rcases hj' with rfl | rfl | rfl | rfl <;> cases size <;> simp only [readBytes, accessBytes] <;> ext i hi <;>
    simp only [BitVec.getElem_extractLsb', BitVec.getLsbD_append, BitVec.getLsbD_setWidth] <;> interval_cases i <;>
    simp

/-! ## Local memory by bytes, the register window included -/

theorem inWindow_iff (w : RegWindow) (off : Nat) : inWindow w off = true ↔ w.base ≤ off ∧ off < w.base + w.size := by
  rw [inWindow, Bool.and_eq_true, decide_eq_true_iff, decide_eq_true_iff]

theorem windowOk_iff (w : RegWindow) : windowOk w = true ↔
    w.base % 8 = 0 ∧ w.size % 8 = 0 ∧ 0x800 ≤ w.size ∧ w.base + w.size ≤ localSize := by
  simp only [windowOk, Bool.and_eq_true, beq_iff_eq, decide_eq_true_eq, and_assoc]

theorem configOk_window {cfg : Config} (h : configOk cfg = true) : windowOk cfg.window = true := by
  simp only [configOk, Bool.and_eq_true] at h
  exact h.1.1.1.1.1.1.1.2

theorem accessBytes_cases (size : Access) : accessBytes size = 1 ∨ accessBytes size = 2 ∨ accessBytes size = 4 := by
  cases size <;> simp [accessBytes]

/-- An aligned access lies inside the window, or outside it, as a whole. -/
theorem inWindow_add {w : RegWindow} (hk : windowOk w = true) {off j : Nat} (size : Access) (ha : off % accessBytes size = 0) (hj : j < accessBytes size) :
    inWindow w (off + j) = inWindow w off := by
  rw [windowOk_iff] at hk
  rw [Bool.eq_iff_iff, inWindow_iff, inWindow_iff]
  rcases accessBytes_cases size with h | h | h <;> rw [h] at ha hj <;> omega

/-- The bytes of an aligned access in the window are bytes of one word. -/
theorem window_add {w : RegWindow} (hk : windowOk w = true) {off j : Nat} (size : Access) (hw : inWindow w off = true)
    (ha : off % accessBytes size = 0)
    (hj : j < accessBytes size) :
    windowIndex w (off + j) = windowIndex w off ∧ windowByte w (off + j) = windowByte w off + j ∧
      windowByte w off + accessBytes size ≤ 4 ∧ windowIndex w off < w.size / 4 := by
  rw [windowOk_iff] at hk
  rw [inWindow_iff] at hw
  simp only [windowIndex, windowByte]
  rcases accessBytes_cases size with h | h | h <;> rw [h] at ha hj ⊢ <;> omega

/-- A byte of the window is a byte of its word. -/
theorem ECore.byte_window (x : ECore) {w : RegWindow} {off : Nat} (hw : inWindow w off = true) :
    x.byte w off = (x.word (windowIndex w off)).extractLsb' (8 * windowByte w off) 8 := by
  simp only [ECore.byte, ECore.load, hw, if_true, accessBytes]
  apply BitVec.eq_of_getLsbD_eq
  intro i hi
  have h1 : i < 32 := by omega
  simp only [BitVec.getLsbD_setWidth, BitVec.getLsbD_and, BitVec.getLsbD_ushiftRight,
    getLsbD_fieldMask 0 (8 * 1) i (by decide), BitVec.getLsbD_extractLsb', hi, h1, Nat.zero_le, decide_true,
    Bool.true_and, Bool.and_true]

/-- A byte of local memory outside the window is a byte of `mem`. -/
theorem ECore.byte_mem (x : ECore) {w : RegWindow} {off : Nat} (hw : inWindow w off = false) :
    x.byte w off = mapGet 0 x.mem off := by
  simp only [ECore.byte, ECore.load, hw, Bool.false_eq_true, if_false, readBytes]
  ext i hi
  simp

/-- An aligned read of local memory: its bytes from the lowest address up, zeros above (R84, R86). -/
theorem ECore.load_byte (x : ECore) {w : RegWindow} (hk : windowOk w = true) {off j : Nat} (size : Access) (ha : off % accessBytes size = 0) (hj : j < 4) :
    (x.load w off size).extractLsb' (8 * j) 8 = if j < accessBytes size then x.byte w (off + j) else 0 := by
  cases hw : inWindow w off with
  | false =>
    simp only [ECore.load, hw, Bool.false_eq_true, if_false]
    rw [readBytes_byte _ _ _ hj]
    by_cases h : j < accessBytes size
    · rw [if_pos h, if_pos h, x.byte_mem (by rw [inWindow_add hk size ha h, hw])]
    · rw [if_neg h, if_neg h]
  | true =>
    simp only [ECore.load, hw, if_true]
    have hn : 8 * accessBytes size ≤ 32 := by rcases accessBytes_cases size with h | h | h <;> omega
    by_cases h : j < accessBytes size
    · obtain ⟨h1, h2, h3, -⟩ := window_add hk size hw ha h
      rw [if_pos h, x.byte_window (by rw [inWindow_add hk size ha h, hw]), h1, h2]
      apply BitVec.eq_of_getLsbD_eq
      intro i hi
      have e1 : 8 * j + i < 32 := by omega
      have e2 : 8 * j + i < 0 + 8 * accessBytes size := by omega
      have e3 : 8 * windowByte w off + (8 * j + i) = 8 * (windowByte w off + j) + i := by omega
      simp only [BitVec.getLsbD_extractLsb', BitVec.getLsbD_and, BitVec.getLsbD_ushiftRight,
        getLsbD_fieldMask 0 _ _ hn, hi, e1, e2, e3, Nat.zero_le, decide_true, Bool.true_and, Bool.and_true]
    · rw [if_neg h]
      apply BitVec.eq_of_getLsbD_eq
      intro i hi
      have e2 : ¬ 8 * j + i < 0 + 8 * accessBytes size := by omega
      simp only [BitVec.getLsbD_extractLsb', BitVec.getLsbD_and, getLsbD_fieldMask 0 _ _ hn, e2, decide_false,
        Bool.and_false]
      simp

/-- A write of local memory outside the window (R85). -/
theorem ECore.store_plain (x : ECore) {w : RegWindow} {off : Nat} (size : Access) (v : Word)
    (hw : inWindow w off = false) : x.store w off size v = some { x with mem := writeBytes x.mem off v size } := by
  simp only [ECore.store, hw, Bool.false_eq_true, if_false]

/-- A word written in the window (R90). -/
theorem ECore.store_word (x : ECore) {w : RegWindow} {off : Nat} (v : Word) (hw : inWindow w off = true) :
    x.store w off .b4 v = some (x.writeWord (windowIndex w off) v) := by
  simp only [ECore.store, hw, if_true]

/-- A memory-mapped write of a word of the window keeps all of the core that is not in the window. -/
theorem ECore.writeWord_rest (x : ECore) (k : Nat) (v : Word) :
    (x.writeWord k v).mem = x.mem ∧ (x.writeWord k v).idle = x.idle ∧ (x.writeWord k v).passed = x.passed ∧
      (x.writeWord k v).failed = x.failed ∧ (x.writeWord k v).exitCode = x.exitCode ∧
      (x.writeWord k v).notes = x.notes := by
  unfold ECore.writeWord
  split_ifs <;> simp

/-- Any write of local memory keeps the idle flag, the outcomes and the notifications. -/
theorem ECore.store_rest {x y : ECore} {w : RegWindow} {off : Nat} {size : Access} {v : Word}
    (h : x.store w off size v = some y) :
    y.idle = x.idle ∧ y.passed = x.passed ∧ y.failed = x.failed ∧ y.exitCode = x.exitCode ∧ y.notes = x.notes := by
  unfold ECore.store at h
  split at h
  · cases size with
    | b4 =>
      obtain ⟨-, h1⟩ := x.writeWord_rest (windowIndex w off) v
      cases h
      exact h1
    | b1 => simp only at h; split at h <;> simp at h; subst h; simp
    | b2 => simp only at h; split at h <;> simp at h; subst h; simp
  · simp only [Option.some.injEq] at h
    subst h
    simp

/-! ## Translation -/

/-- A local target is in the issuing core or in a core of the grid, at the address's offset, not reserved
(R72 to R74). -/
theorem translate_core {cfg : Config} {self c : CoreId} {a : Word} {off : Nat}
    (h : translate cfg self a = .core c off) :
    off = a.toNat % 2 ^ 20 ∧ (c = self ∨ inGrid cfg c = true) ∧ reserved cfg off = false := by
  have ho : offsetOf a = a.toNat % 2 ^ 20 := by simp [offsetOf, BitVec.extractLsb'_toNat]
  have key : ∀ d : CoreId, localTarget cfg d (offsetOf a) = .core c off →
      c = d ∧ off = offsetOf a ∧ reserved cfg off = false := by
    intro d hd
    unfold localTarget at hd
    split at hd
    · simp at hd
    · next hr =>
      simp only [Target.core.injEq] at hd
      exact ⟨hd.1.symm, hd.2.symm, by rw [← hd.2]; simpa using hr⟩
  unfold translate at h
  split at h
  · simp at h
  · split at h
    · obtain ⟨h1, h2, h3⟩ := key _ h
      exact ⟨h2.trans ho, .inl h1, h3⟩
    · split at h
      · next hg =>
        obtain ⟨h1, h2, h3⟩ := key _ h
        exact ⟨h2.trans ho, .inr (h1 ▸ hg), h3⟩
      · simp at h

/-- An external target (R71). -/
theorem translate_external {cfg : Config} {self : CoreId} {a : Word} {off : Nat}
    (h : translate cfg self a = .external off) :
    off = a.toNat - cfg.extBase ∧ cfg.extBase ≤ a.toNat ∧ a.toNat < cfg.extBase + cfg.extSize := by
  have key : ∀ d : CoreId, localTarget cfg d (offsetOf a) ≠ .external off := by
    intro d
    unfold localTarget
    split <;> simp
  unfold translate at h
  split at h
  · next hc => simp only [Target.external.injEq] at h; exact ⟨h.symm, hc⟩
  · split at h
    · exact absurd h (key _)
    · split at h
      · exact absurd h (key _)
      · simp at h

/-- The offset of an aligned access is aligned, and a local access in bounds (R81, R83). -/
theorem aligned_core {cfg : Config} {self c : CoreId} {a : Word} {off : Nat} {n : Nat}
    (h : translate cfg self a = .core c off) (hn : n ∣ 2 ^ 20) (ha : aligned a n = true) :
    off % n = 0 ∧ off + n ≤ localSize := by
  obtain ⟨rfl, -, -⟩ := translate_core h
  have h1 : a.toNat % n = 0 := by simpa [aligned] using ha
  have h2 : a.toNat % 2 ^ 20 % n = 0 := by rw [Nat.mod_mod_of_dvd _ hn, h1]
  refine ⟨h2, ?_⟩
  have h3 : a.toNat % 2 ^ 20 < 2 ^ 20 := Nat.mod_lt _ (by decide)
  obtain ⟨q, hq⟩ := hn
  obtain ⟨r, hr⟩ := Nat.dvd_of_mod_eq_zero h2
  rw [hr] at h3 ⊢
  show n * r + n ≤ 2 ^ 20
  rw [hq] at h3 ⊢
  have : r < q := lt_of_mul_lt_mul_left h3 (Nat.zero_le n)
  calc n * r + n = n * (r + 1) := by ring
    _ ≤ n * q := Nat.mul_le_mul_left n this

end Sys2Proof.Machine
end

