-- ==== Sys2Proof/Laws/Access.lean ====
section
/-! SUPPORT. What the operations that the instructions share come to: an access by what its address translates to, the
transfers of each size, the ends of an instruction, and the writing of a result with its flags. -/

namespace Sys2Proof.Machine

/-! ## Results -/

@[simp] theorem Res.ok_bind {α β : Type} (a : α) (f : α → Res β) : (Res.ok a).bind f = f a := rfl
@[simp] theorem Res.memoryFault_bind {α β : Type} (a : Word) (w : Bool) (s : State) (f : α → Res β) :
    (Res.memoryFault a w s).bind f = .memoryFault a w s := rfl
@[simp] theorem Res.misaligned_bind {α β : Type} (a : Word) (f : α → Res β) :
    (Res.misaligned a).bind f = .misaligned a := rfl
@[simp] theorem Res.refused_bind {α β : Type} (r : Refusal) (f : α → Res β) : (Res.refused r).bind f = .refused r := rfl

/-- A result that went on came from a result that went on. -/
theorem Res.bind_eq_ok {α β : Type} {r : Res α} {f : α → Res β} {b : β} (h : r.bind f = .ok b) :
    ∃ a, r = .ok a ∧ f a = .ok b := by
  cases r with
  | ok a => exact ⟨a, rfl, h⟩
  | memoryFault a w s => cases h
  | misaligned a => cases h
  | refused r => cases h

/-! ## Accesses (R80 to R85) -/

theorem memRead_misaligned (s : State) (c : CoreId) {a : Word} {size : Access} (h : aligned a (accessBytes size) = false) :
    memRead s c a size = .misaligned a := by
  simp [memRead, h]

theorem memRead_invalid (s : State) {c : CoreId} {a : Word} {size : Access} (h : aligned a (accessBytes size) = true)
    (ht : translate s.cfg c a = .invalid) : memRead s c a size = .memoryFault a false s := by
  simp [memRead, h, ht, inBounds]

theorem memRead_core (s : State) {c d : CoreId} {a : Word} {off : Nat} {size : Access}
    (h : aligned a (accessBytes size) = true) (ht : translate s.cfg c a = .core d off) :
    memRead s c a size = .ok ((s.core d).load s.cfg.window off size) := by
  have hb := (aligned_core ht (by rcases accessBytes_cases size with e | e | e <;> rw [e] <;> decide) h).2
  simp [memRead, h, ht, inBounds, hb]

theorem memWrite_misaligned (s : State) (c : CoreId) {a : Word} {size : Access} (v : Word)
    (h : aligned a (accessBytes size) = false) : memWrite s c a size v = .misaligned a := by
  simp [memWrite, h]

theorem memWrite_invalid (s : State) {c : CoreId} {a : Word} {size : Access} (v : Word)
    (h : aligned a (accessBytes size) = true) (ht : translate s.cfg c a = .invalid) :
    memWrite s c a size v = .memoryFault a true s := by
  simp [memWrite, h, ht, inBounds]

theorem memWrite_core (s : State) {c d : CoreId} {a : Word} {off : Nat} {size : Access} {v : Word} {x : ECore}
    (h : aligned a (accessBytes size) = true) (ht : translate s.cfg c a = .core d off)
    (hx : (s.core d).store s.cfg.window off size v = some x) : memWrite s c a size v = .ok (s.setCore d x) := by
  have hb := (aligned_core ht (by rcases accessBytes_cases size with e | e | e <;> rw [e] <;> decide) h).2
  simp [memWrite, h, ht, inBounds, hb, hx]

theorem memWrite_core_refused (s : State) {c d : CoreId} {a : Word} {off : Nat} {size : Access} {v : Word}
    (h : aligned a (accessBytes size) = true) (ht : translate s.cfg c a = .core d off)
    (hx : (s.core d).store s.cfg.window off size v = none) : memWrite s c a size v = .refused .narrowSideEffectWrite := by
  have hb := (aligned_core ht (by rcases accessBytes_cases size with e | e | e <;> rw [e] <;> decide) h).2
  simp [memWrite, h, ht, inBounds, hb, hx]

/-- The block of external memory begins and ends at a multiple of 8 (R71). -/
theorem configOk_ext {cfg : Config} (h : configOk cfg = true) : cfg.extBase % 8 = 0 ∧ cfg.extSize % 8 = 0 := by
  simp only [configOk, Bool.and_eq_true, beq_iff_eq] at h
  omega

/-- An aligned access that begins in external memory stays in it (R83). -/
theorem aligned_external {cfg : Config} (hc : configOk cfg = true) {c : CoreId} {a : Word} {off : Nat} {n : Nat}
    (hn : n = 1 ∨ n = 2 ∨ n = 4 ∨ n = 8) (h : aligned a n = true) (ht : translate cfg c a = .external off) :
    off + n ≤ cfg.extSize := by
  obtain ⟨h1, h2⟩ := configOk_ext hc
  obtain ⟨rfl, h3, h4⟩ := translate_external ht
  have h5 : a.toNat % n = 0 := by simpa [aligned] using h
  rcases hn with rfl | rfl | rfl | rfl <;> omega

theorem memRead_external {s : State} (hc : configOk s.cfg = true) {c : CoreId} {a : Word} {off : Nat} {size : Access}
    (h : aligned a (accessBytes size) = true) (ht : translate s.cfg c a = .external off) :
    memRead s c a size = .ok (readBytes s.ext off size) := by
  have hb := aligned_external hc (by rcases accessBytes_cases size with e | e | e <;> simp [e]) h ht
  simp [memRead, h, ht, inBounds, hb]

theorem memWrite_external {s : State} (hc : configOk s.cfg = true) {c : CoreId} {a : Word} {off : Nat} {size : Access}
    (v : Word) (h : aligned a (accessBytes size) = true) (ht : translate s.cfg c a = .external off) :
    memWrite s c a size v = .ok { s with ext := writeBytes s.ext off v size } := by
  have hb := aligned_external hc (by rcases accessBytes_cases size with e | e | e <;> simp [e]) h ht
  simp [memWrite, h, ht, inBounds, hb]

/-! ## Transfers (R221) -/

/-- A load that went on read its word, or its aligned pair of words, the second after the first register was written. -/
theorem loadN_ok {s t : State} {ea : Word} {size : Size} {rd : RegIdx} (h : loadN s ea size rd = .ok t) :
    (size ≠ .double ∧ ∃ v, memRead s s.self ea (sizeAccess size) = .ok v ∧ t = s.setReg rd v) ∨
      (size = .double ∧ aligned ea 8 = true ∧ ∃ lo hi, memRead s s.self ea .b4 = .ok lo ∧
        memRead (s.setReg rd lo) s.self (ea + 4) .b4 = .ok hi ∧ t = (s.setReg rd lo).setReg (pairReg rd) hi) := by
  unfold loadN at h
  split at h
  · next hz =>
    split at h
    · next ha =>
      obtain ⟨lo, h1, h⟩ := Res.bind_eq_ok h
      obtain ⟨hi, h2, h⟩ := Res.bind_eq_ok h
      cases h
      exact .inr ⟨hz, ha, lo, hi, h1, h2, rfl⟩
    · cases h
  · next hz =>
    obtain ⟨v, h1, h⟩ := Res.bind_eq_ok h
    cases h
    exact .inl ⟨hz, v, h1, rfl⟩

/-- A store that went on wrote its word, or its aligned pair of words one after the other. -/
theorem storeN_ok {s t : State} {ea : Word} {size : Size} {d0 d1 : Word} (h : storeN s ea size d0 d1 = .ok t) :
    (size ≠ .double ∧ memWrite s s.self ea (sizeAccess size) d0 = .ok t) ∨
      (size = .double ∧ aligned ea 8 = true ∧ ∃ u, memWrite s s.self ea .b4 d0 = .ok u ∧
        memWrite u s.self (ea + 4) .b4 d1 = .ok t) := by
  unfold storeN at h
  split at h
  · next hz =>
    split at h
    · next ha =>
      obtain ⟨u, h1, h⟩ := Res.bind_eq_ok h
      exact .inr ⟨hz, ha, u, h1, h⟩
    · cases h
  · next hz => exact .inl ⟨hz, h⟩

/-- A test-and-set that went on read a word of another core, outside its window, and wrote it if it was zero (R102). -/
theorem testSet_ok {s : State} {c : CoreId} {a v : Word} {p : Word × State} (h : testSet s c a v = .ok p) :
    aligned a 4 = true ∧ ∃ d off, translate s.cfg c a = .core d off ∧ d ≠ c ∧ inWindow s.cfg.window off = false ∧
      p.1 = (s.core d).load s.cfg.window off .b4 ∧
      p.2 = if p.1 = 0 then s.setCore d { s.core d with mem := writeBytes (s.core d).mem off v .b4 } else s := by
  unfold testSet at h
  split at h
  · next ha =>
    split at h
    · next d off ht =>
      split at h
      · cases h
      · next hd =>
        split at h
        · cases h
        · next hw =>
          cases h
          exact ⟨ha, d, off, ht, hd, by simpa using hw, rfl, rfl⟩
    · cases h
  · cases h

/-! ## The ends of an instruction -/

theorem runInstr_ok (width : Nat) (s t : State) (sig : Signal) :
    runInstr width s (.ok (sig, t)) = .next (complete width s.pc sig t) := rfl

theorem runInstr_memoryFault (width : Nat) (s t : State) (a : Word) (w : Bool) :
    runInstr width s (.memoryFault a w t) = .next (halt t (.invalidMemoryAccess a w)) := rfl

theorem runInstr_misaligned (width : Nat) (s : State) (a : Word) :
    runInstr width s (.misaligned a) =
      .next (complete width s.pc .next (trigger s s.self irqSwExc (some .unalignedAccess))) := rfl

theorem runInstr_refused (width : Nat) (s : State) (r : Refusal) : runInstr width s (.refused r) = .refused r := rfl

/-- Everything the end of an instruction can be: it completed, it halted on a memory fault, it was abandoned for a
misaligned access, or it was refused. -/
theorem runInstr_next {width : Nat} {s t : State} {r : Res (Signal × State)} (h : runInstr width s r = .next t) :
    (∃ sig u, r = .ok (sig, u) ∧ t = complete width s.pc sig u) ∨
      (∃ a w u, r = .memoryFault a w u ∧ t = halt u (.invalidMemoryAccess a w)) ∨
      ∃ a, r = .misaligned a ∧
        t = complete width s.pc .next (trigger s s.self irqSwExc (some .unalignedAccess)) := by
  cases r with
  | ok p => obtain ⟨sig, u⟩ := p; cases h; exact .inl ⟨sig, u, rfl, rfl⟩
  | memoryFault a w u => cases h; exact .inr (.inl ⟨a, w, u, rfl, rfl⟩)
  | misaligned a => cases h; exact .inr (.inr ⟨a, rfl, rfl⟩)
  | refused r => cases h

/-! ## A result and its flags -/

/-- Words that are registers, STATUS or ILAT hold none of PC, LC, LE, LS. -/
theorem loop_notin {ks : List Nat} (h : ∀ k ∈ ks, k < 64 ∨ k = Ctl.index .status ∨ k = Ctl.index .ilat) :
    ∀ r : Ctl, r ∈ [Ctl.pc, .lc, .le, .ls] → r.index ∉ ks := by
  intro r hr hm
  have := r.index_ge
  rcases h _ hm with h | h | h
  · omega
  · rw [Ctl.index_eq_iff] at h; subst h; simp at hr
  · rw [Ctl.index_eq_iff] at h; subst h; simp at hr

/-- An instruction that writes one register is completed. -/
theorem completed_reg (s : State) (width : Nat) (rd : RegIdx) (v : Word) :
    Completed s (complete width s.pc .next (s.setReg rd v)) (s.pc + BitVec.ofNat 32 width) [rd.toNat] :=
  completed_next width (frame_setReg s rd v) (outcome_setReg s rd v) (by simp) (loop_notin fun k hk => by
    simp only [List.mem_cons, List.not_mem_nil, or_false] at hk
    exact .inl (hk ▸ rd.isLt))

/-- An instruction that writes one register and STATUS is completed. -/
theorem completed_regStatus (s : State) (width : Nat) (rd : RegIdx) (v st : Word) :
    Completed s (complete width s.pc .next ((s.setReg rd v).setCtl .status st)) (s.pc + BitVec.ofNat 32 width)
      [rd.toNat, Ctl.index .status] :=
  completed_next width ((frame_setReg s rd v).trans (frame_setCtl _ .status st))
    ((outcome_setReg s rd v).trans (outcome_setCtl _ _ _)) (by simp) (loop_notin fun k hk => by
      simp only [List.mem_cons, List.not_mem_nil, or_false] at hk
      rcases hk with rfl | rfl
      · exact .inl rd.isLt
      · exact .inr (.inl rfl))

@[simp] theorem flag_setCtl_status (s : State) (st : Word) (b : Nat) :
    (s.setCtl .status st).flag b = st.getLsbD b := by
  simp [State.flag]

/-- Each bit of STATUS after the integer flags are written (R160). -/
theorem intFlags_bit (st r : Word) (c v : Bool) (b : Nat) : (intFlags st r c v).getLsbD b =
    if b = bitAV then v else if b = bitAC then c else if b = bitAN then r.getLsbD 31
      else if b = bitAZ then (r == 0) else st.getLsbD b := by
  simp only [intFlags]
  rw [getLsbD_setBit _ _ _ _ (by decide), getLsbD_setBit _ _ _ _ (by decide), getLsbD_setBit _ _ _ _ (by decide),
    getLsbD_setBit _ _ _ _ (by decide)]

/-- Each bit of STATUS after an addition or subtraction (R160). -/
theorem arithFlags_bit (st r : Word) (c v : Bool) (b : Nat) : (arithFlags st r c v).getLsbD b =
    if b = bitAVS then (st.getLsbD bitAVS || v) else (intFlags st r c v).getLsbD b := by
  simp only [arithFlags]
  rw [getLsbD_setBit _ _ _ _ (by decide)]

/-- A result in a register with the integer flags in STATUS is what `IntDone` says. -/
theorem intDone_of {s : State} {width : Nat} {rd : RegIdx} {r st : Word} {c v avs : Bool}
    (hst : ∀ b, st.getLsbD b = if b = bitAVS then avs else (intFlags (s.ctl .status) r c v).getLsbD b) :
    IntDone s (runNext width s ((s.setReg rd r).setCtl .status st)) width rd r c v avs := by
  refine ⟨_, rfl, by simp, ⟨?_, ?_, ?_, ?_, ?_, fun b hb => ?_⟩, completed_regStatus s width rd r st⟩
  all_goals simp only [flag_complete, flag_setCtl_status, hst, intFlags_bit]
  · show (r == 0) = decide (r = 0)
    rfl
  · rfl
  · rfl
  · rfl
  · rfl
  · simp only [List.mem_cons, List.not_mem_nil, or_false, not_or] at hb
    simp only [hb, if_false]
    rfl

/-! ## Bit reverse (R174) -/

theorem swapGroups_bit (a : Word) (n : Nat) (m : Word) {i : Nat} (hi : i < 32) : (swapGroups a n m).getLsbD i =
    ((a.getLsbD (n + i) && m.getLsbD i) || (decide (n ≤ i) && (a.getLsbD (i - n) && m.getLsbD (i - n)))) := by
  simp only [swapGroups, BitVec.getLsbD_or, BitVec.getLsbD_and, BitVec.getLsbD_ushiftRight, BitVec.getLsbD_shiftLeft,
    hi, decide_true, Bool.true_and]
  by_cases h : n ≤ i
  · have : ¬ i < n := by omega
    simp [h, this]
  · have : i < n := by omega
    simp [h, this]

theorem bitReverse_bit (a : Word) {i : Nat} (hi : i < 32) : (bitReverse a).getLsbD i = a.getLsbD (31 - i) := by
  unfold bitReverse
  interval_cases i <;> simp +decide only [swapGroups_bit, Nat.reduceAdd, Nat.reduceSub] <;> simp

end Sys2Proof.Machine
end

