-- ==== Sys2Proof/Laws/Agenda.lean ====
section
/-! SUPPORT. No instruction reads or writes the agenda: its execute is the same whatever the agents do next. -/

namespace Sys2Proof.Machine

/-- The state with another agenda. -/
def State.withAgenda (s : State) (l : List Event) : State := { s with agenda := l }

@[simp] theorem State.withAgenda_cfg (s : State) (l : List Event) : (s.withAgenda l).cfg = s.cfg := rfl
@[simp] theorem State.withAgenda_self (s : State) (l : List Event) : (s.withAgenda l).self = s.self := rfl
@[simp] theorem State.withAgenda_fresh (s : State) (l : List Event) : (s.withAgenda l).fresh = s.fresh := rfl
@[simp] theorem State.withAgenda_ext (s : State) (l : List Event) : (s.withAgenda l).ext = s.ext := rfl
@[simp] theorem State.withAgenda_agenda (s : State) (l : List Event) : (s.withAgenda l).agenda = l := rfl
@[simp] theorem State.core_withAgenda (s : State) (l : List Event) (c : CoreId) :
    (s.withAgenda l).core c = s.core c := rfl
@[simp] theorem State.me_withAgenda (s : State) (l : List Event) : (s.withAgenda l).me = s.me := rfl
@[simp] theorem State.reg_withAgenda (s : State) (l : List Event) (i : RegIdx) : (s.withAgenda l).reg i = s.reg i := rfl
@[simp] theorem State.ctl_withAgenda (s : State) (l : List Event) (r : Ctl) : (s.withAgenda l).ctl r = s.ctl r := rfl
@[simp] theorem State.pc_withAgenda (s : State) (l : List Event) : (s.withAgenda l).pc = s.pc := rfl

/-- A result with its value changed by `g`, and with another agenda where it carries a state. -/
def Res.reAgenda {α β : Type} (l : List Event) (g : α → β) : Res α → Res β
  | .ok a => .ok (g a)
  | .memoryFault a w s => .memoryFault a w (s.withAgenda l)
  | .misaligned a => .misaligned a
  | .refused r => .refused r

/-- Going on with a result commutes with a change of the agenda, if what is gone on with does. -/
theorem Res.bind_reAgenda {α β γ δ : Type} (l : List Event) {g : α → β} {h : γ → δ} {f : α → Res γ} {f' : β → Res δ}
    (r : Res α) (hf : ∀ a, f' (g a) = (f a).reAgenda l h) : (r.reAgenda l g).bind f' = (r.bind f).reAgenda l h := by
  cases r with
  | ok a => exact hf a
  | _ => rfl

/-- A choice commutes with a map that each of its sides commutes with. -/
theorem ite_map {α β : Type} (φ : α → β) {b b' : Bool} (hb : b' = b) {x y : α} {x' y' : β} (hx : x' = φ x)
    (hy : y' = φ y) : (if b' then x' else y') = φ (if b then x else y) := by
  subst hb hx hy
  cases b' <;> rfl

/-! ## Accesses -/

theorem memRead_withAgenda (s : State) (l : List Event) (c : CoreId) (a : Word) (size : Access) :
    memRead (s.withAgenda l) c a size = (memRead s c a size).reAgenda l id := by
  cases ht : translate s.cfg c a <;>
    simp only [memRead, State.withAgenda_cfg, State.withAgenda_ext, State.core_withAgenda, ht] <;> split_ifs <;> rfl

theorem byteAt_withAgenda (s : State) (l : List Event) : byteAt (s.withAgenda l) = byteAt s := by
  funext c a
  simp only [byteAt, memRead_withAgenda]
  cases memRead s c a .b1 <;> rfl

theorem memWrite_withAgenda (s : State) (l : List Event) (c : CoreId) (a : Word) (size : Access) (v : Word) :
    memWrite (s.withAgenda l) c a size v = (memWrite s c a size v).reAgenda l (·.withAgenda l) := by
  cases ht : translate s.cfg c a with
  | core d off =>
    cases hx : (s.core d).store s.cfg.window off size v <;>
      simp only [memWrite, State.withAgenda_cfg, State.core_withAgenda, ht, hx] <;> split_ifs <;> rfl
  | _ => simp only [memWrite, State.withAgenda_cfg, ht] <;> split_ifs <;> rfl

theorem testSet_withAgenda (s : State) (l : List Event) (c : CoreId) (a v : Word) :
    testSet (s.withAgenda l) c a v = (testSet s c a v).reAgenda l fun p => (p.1, p.2.withAgenda l) := by
  cases ht : translate s.cfg c a with
  | core d off =>
    by_cases h1 : aligned a 4 = true <;> by_cases h2 : d = c <;> by_cases h3 : inWindow s.cfg.window off = true <;>
      by_cases h4 : (s.core d).load s.cfg.window off .b4 = 0#32 <;> simp [testSet, ht, h1, h2, h3, h4, Res.reAgenda] <;> rfl
  | _ => simp only [testSet, State.withAgenda_cfg, ht] <;> split_ifs <;> rfl

theorem loadN_withAgenda (s : State) (l : List Event) (ea : Word) (size : Size) (rd : RegIdx) :
    loadN (s.withAgenda l) ea size rd = (loadN s ea size rd).reAgenda l (·.withAgenda l) := by
  have h : ∀ lo, (s.withAgenda l).setReg rd lo = (s.setReg rd lo).withAgenda l := fun _ => rfl
  unfold loadN
  simp only [State.withAgenda_self, h, memRead_withAgenda]
  split
  · split
    · exact Res.bind_reAgenda l _ fun lo => Res.bind_reAgenda l _ fun hi => rfl
    · rfl
  · exact Res.bind_reAgenda l _ fun v => rfl

theorem storeN_withAgenda (s : State) (l : List Event) (ea : Word) (size : Size) (d0 d1 : Word) :
    storeN (s.withAgenda l) ea size d0 d1 = (storeN s ea size d0 d1).reAgenda l (·.withAgenda l) := by
  unfold storeN
  simp only [State.withAgenda_self, memWrite_withAgenda]
  split
  · split
    · exact Res.bind_reAgenda l _ fun t => memWrite_withAgenda t l s.self (ea + 4) .b4 d1
    · rfl
  · rfl

/-! ## The end of an instruction -/

theorem complete_withAgenda (width : Nat) (a : Word) (sig : Signal) (s : State) (l : List Event) :
    complete width a sig (s.withAgenda l) = (complete width a sig s).withAgenda l := by
  have hi : applyIdle sig (s.withAgenda l) = (applyIdle sig s).withAgenda l := by cases sig <;> rfl
  have ha : ∀ t : State, applySignal width a sig (t.withAgenda l) = (applySignal width a sig t).withAgenda l := by
    intro t
    simp only [applySignal, show loopWraps a (t.withAgenda l) = loopWraps a t from rfl]
    split
    · rfl
    · cases sig <;> rfl
  simp only [complete, hi, ha]
  rfl

theorem runInstr_withAgenda (width : Nat) (s : State) (l : List Event) (r : Res (Signal × State)) :
    runInstr width (s.withAgenda l) (r.reAgenda l fun p => (p.1, p.2.withAgenda l)) =
      mapNext (·.withAgenda l) (runInstr width s r) := by
  have ht : trigger (s.withAgenda l) s.self irqSwExc (some .unalignedAccess) =
      (trigger s s.self irqSwExc (some .unalignedAccess)).withAgenda l := rfl
  cases r with
  | ok p => exact congrArg Host.Outcome.next (complete_withAgenda width s.pc p.1 p.2 l)
  | memoryFault a w t => rfl
  | misaligned a =>
    simp only [Res.reAgenda, runInstr, State.withAgenda_self, State.pc_withAgenda, ht, complete_withAgenda, mapNext]
  | refused x => rfl

theorem runInstr_ok_withAgenda (width : Nat) (s t : State) (l : List Event) (sig : Signal) :
    runInstr width (s.withAgenda l) (.ok (sig, t.withAgenda l)) =
      mapNext (·.withAgenda l) (runInstr width s (.ok (sig, t))) :=
  runInstr_withAgenda width s l (.ok (sig, t))

theorem runNext_withAgenda (width : Nat) (s t : State) (l : List Event) :
    runNext width (s.withAgenda l) (t.withAgenda l) = mapNext (·.withAgenda l) (runNext width s t) :=
  runInstr_ok_withAgenda width s t l .next

theorem runBind_withAgenda {α β : Type} (width : Nat) (s : State) (l : List Event) {g : α → β} (r : Res α)
    {f : α → Res (Signal × State)} {f' : β → Res (Signal × State)}
    (hf : ∀ a, f' (g a) = (f a).reAgenda l fun p => (p.1, p.2.withAgenda l)) :
    runInstr width (s.withAgenda l) ((r.reAgenda l g).bind f') = mapNext (·.withAgenda l) (runInstr width s (r.bind f)) := by
  rw [Res.bind_reAgenda l r hf]
  exact runInstr_withAgenda width s l _

/-! ## The families -/

theorem forCores_withAgenda {f : State → CoreId → State} (l : List Event)
    (hf : ∀ s c, f (s.withAgenda l) c = (f s c).withAgenda l) (cs : List CoreId) (s : State) :
    forCores f cs (s.withAgenda l) = (forCores f cs s).withAgenda l := by
  induction cs generalizing s with
  | nil => rfl
  | cons c cs ih => simp only [forCores, hf, ih]

theorem wandEffect_withAgenda (s : State) (l : List Event) : wandEffect (s.withAgenda l) =
    (wandEffect s).withAgenda l := by
  have h : (s.withAgenda l).setFlag bitWand true = (s.setFlag bitWand true).withAgenda l := rfl
  unfold wandEffect
  rw [h]
  generalize s.setFlag bitWand true = t
  show (if allWand t (gridCores t.cfg) then _ else _) = State.withAgenda (if allWand t (gridCores t.cfg) then _ else _) l
  by_cases h1 : allWand t (gridCores t.cfg) = true
  · rw [if_pos h1, if_pos h1]
    exact forCores_withAgenda l (fun _ _ => rfl) _ _
  · rw [if_neg h1, if_neg h1]

theorem kernelWrites_withAgenda (l : List Event) (ws : List KernelWrite) (s : State) :
    kernelWrites ws (s.withAgenda l) = (kernelWrites ws s).reAgenda l (·.withAgenda l) := by
  induction ws generalizing s with
  | nil => rfl
  | cons w ws ih =>
    simp only [kernelWrites, State.withAgenda_cfg, memWrite_withAgenda]
    split
    · cases memWrite s w.core w.addr w.size w.value with
      | ok t => exact ih t
      | refused r => rfl
      | _ => exact ih s
    · rfl

theorem syscallReply_withAgenda (s : State) (l : List Event) : syscallReply (s.withAgenda l) = syscallReply s := by
  simp only [syscallReply, byteAt_withAgenda]
  rfl

theorem trapEffect_withAgenda (s : State) (l : List Event) (n : BitVec 6) :
    trapEffect (s.withAgenda l) n = (trapEffect s n).reAgenda l fun p => (p.1, p.2.withAgenda l) := by
  unfold trapEffect
  split
  · rfl
  split
  · rfl
  split
  · rfl
  split
  · unfold systemCall
    simp only [State.withAgenda_cfg, syscallReply_withAgenda]
    split
    · show Res.bind (kernelWrites _ (State.withAgenda { s with fresh := s.fresh + 1 } l)) _ = _
      rw [kernelWrites_withAgenda]
      exact Res.bind_reAgenda l _ fun t => rfl
    · rfl
  · rfl

theorem runFloat_withAgenda (width : Nat) (s t : State) (l : List Event) :
    runFloat width (s.withAgenda l) (t.withAgenda l) = mapNext (·.withAgenda l) (runFloat width s t) := by
  unfold runFloat
  simp only [show floatMode (s.withAgenda l) = floatMode s from rfl]
  split
  · exact runNext_withAgenda width s t l
  · rfl

theorem extAct_withAgenda (s : State) (l : List Event) (a : ExtAct) :
    extAct (s.withAgenda l) a = (extAct s a).reAgenda l (·.withAgenda l) := by
  cases a with
  | setWord k v => rfl
  | read a size =>
    simp only [extAct, State.withAgenda_self, memRead_withAgenda]
    exact Res.bind_reAgenda l _ fun v => rfl
  | write a size v => exact memWrite_withAgenda s l s.self a size v
  | trigger c irq cause =>
    unfold extAct
    exact ite_map (Res.reAgenda l fun u : State => u.withAgenda l) rfl (x := .ok (trigger s c irq cause))
      (y := .refused .argumentError) rfl rfl

theorem extActs_withAgenda (l : List Event) (as : List ExtAct) (s : State) :
    extActs as (s.withAgenda l) = (extActs as s).reAgenda l (·.withAgenda l) := by
  induction as generalizing s with
  | nil => rfl
  | cons a as ih =>
    simp only [extActs, extAct_withAgenda]
    exact Res.bind_reAgenda l _ ih

theorem execExt_withAgenda (s : State) (l : List Event) (e : ExtInstr) :
    execExt e (s.withAgenda l) = mapNext (·.withAgenda l) (execExt e s) := by
  have hr : extReply (s.withAgenda l) e = extReply s e := by
    simp only [extReply, byteAt_withAgenda]
    rfl
  have hs : ∀ n, { s.withAgenda l with fresh := n } = State.withAgenda { s with fresh := n } l := fun _ => rfl
  unfold execExt runExt
  rw [hr, State.withAgenda_fresh, hs, extActs_withAgenda]
  exact runBind_withAgenda _ _ l _ fun t => rfl

theorem aluReg_withAgenda (l : List Event) (s : State) (width : Nat) (op : AluOp) (rd rn rm : RegIdx) :
    aluReg width (s.withAgenda l) op rd rn rm =
      mapNext (·.withAgenda l) (aluReg width s op rd rn rm) :=
  runNext_withAgenda width s (aluWrite s op rd (s.reg rn) (s.reg rm)) l

theorem aluImm_withAgenda (l : List Event) (s : State) (width : Nat) (op : AluOp) (rd rn : RegIdx) (b : Word) :
    aluImm width (s.withAgenda l) op rd rn b =
      mapNext (·.withAgenda l) (aluImm width s op rd rn b) :=
  runNext_withAgenda width s (aluWrite s op rd (s.reg rn) b) l

theorem bitr_withAgenda (l : List Event) (s : State) (width : Nat) (rd rn : RegIdx) :
    runNext width (s.withAgenda l) (bitrWrite (s.withAgenda l) rd ((s.withAgenda l).reg rn)) =
      mapNext (·.withAgenda l) (runNext width s (bitrWrite s rd (s.reg rn))) :=
  runNext_withAgenda width s (bitrWrite s rd (s.reg rn)) l

theorem raiseFloat_withAgenda (l : List Event) (u : State) (r : FpResult) :
    raiseFloat (u.withAgenda l) r =
      (raiseFloat u r).withAgenda l := by
  unfold raiseFloat
  exact ite_map (fun v : State => v.withAgenda l) rfl (x := trigger u u.self irqSwExc (some .floatingPoint)) (y := u)
    rfl rfl

theorem floatWrite_withAgenda (l : List Event) (u : State) (rd : RegIdx) (st : Word) (r : FpResult) :
    floatWrite (u.withAgenda l) rd st r =
      (floatWrite u rd st r).withAgenda l :=
  raiseFloat_withAgenda l ((u.setReg rd r.word).setCtl .status st) r

theorem floatArith_withAgenda (l : List Event) (s : State) (width : Nat)
    (op : FpArithOp) (rd rn rm : RegIdx) :
    floatArith width (s.withAgenda l) op rd rn rm =
      mapNext (·.withAgenda l) (floatArith width s op rd rn rm) := by
  unfold floatArith
  exact (congrArg (runFloat width _) (floatWrite_withAgenda l s rd _ _)).trans (runFloat_withAgenda width s _ l)

theorem floatFma_withAgenda (l : List Event) (s : State) (width : Nat) (op : FpArithOp) (rd rn rm : RegIdx) :
    floatFma width (s.withAgenda l) op rd rn rm =
      mapNext (·.withAgenda l) (floatFma width s op rd rn rm) := by
  unfold floatFma
  exact (congrArg (runFloat width _) (floatWrite_withAgenda l { s with fresh := s.fresh + 1 } rd _ _)).trans
    (runFloat_withAgenda width s _ l)

theorem floatFromInt_withAgenda (l : List Event) (s : State) (width : Nat) (rd rn : RegIdx) :
    floatFromInt width (s.withAgenda l) rd rn =
      mapNext (·.withAgenda l) (floatFromInt width s rd rn) :=
  runFloat_withAgenda width s ((s.setReg rd (floatOf s.cfg.fp s.cfg.arch (truncMode s) (s.reg rn))).setCtl .status _) l

theorem floatToInt_withAgenda (l : List Event) (s : State) (width : Nat) (rd rn : RegIdx) :
    floatToInt width (s.withAgenda l) rd rn =
      mapNext (·.withAgenda l) (floatToInt width s rd rn) := by
  unfold floatToInt
  exact (congrArg (runFloat width _) (floatWrite_withAgenda l s rd _ _)).trans (runFloat_withAgenda width s _ l)

theorem floatAbs_withAgenda (l : List Event) (s : State) (width : Nat) (rd rn : RegIdx) :
    floatAbs width (s.withAgenda l) rd rn =
      mapNext (·.withAgenda l) (floatAbs width s rd rn) :=
  runFloat_withAgenda width s ((s.setReg rd (absOf s.cfg.fp s.cfg.arch (truncMode s) (s.reg rn))).setCtl .status _) l

theorem movIf_withAgenda (l : List Event) (s : State) (width : Nat) (cond : Cond) (rd rn : RegIdx) :
    movIf width (s.withAgenda l) cond rd rn =
      mapNext (·.withAgenda l) (movIf width s cond rd rn) := by
  unfold movIf
  exact (congrArg (runNext width _) (ite_map (fun v : State => v.withAgenda l) rfl
    (x := s.setReg rd (s.reg rn)) (y := s) rfl rfl)).trans
    (runNext_withAgenda width s _ l)

theorem moveToCtl_withAgenda (l : List Event) (s : State) (width : Nat) (group : BitVec 2) (sn : BitVec 6)
    (rd : RegIdx) :
    moveToCtl width (s.withAgenda l) group sn rd =
      mapNext (·.withAgenda l) (moveToCtl width s group sn rd) := by
  unfold moveToCtl
  rw [memWrite_withAgenda]
  exact runBind_withAgenda width s l _ fun t => rfl

theorem moveFromCtl_withAgenda (l : List Event) (s : State) (width : Nat) (group : BitVec 2) (sn : BitVec 6)
    (rd : RegIdx) :
    moveFromCtl width (s.withAgenda l) group sn rd =
      mapNext (·.withAgenda l) (moveFromCtl width s group sn rd) := by
  unfold moveFromCtl
  rw [memRead_withAgenda]
  exact runBind_withAgenda width s l _ fun t => rfl

theorem branchIf_withAgenda (l : List Event) (s : State) (width : Nat) (cond : Cond) (disp : Word) :
    branchIf width (s.withAgenda l) cond disp =
      mapNext (·.withAgenda l) (branchIf width s cond disp) := by
  unfold branchIf
  refine ite_map (mapNext fun v : State => v.withAgenda l) rfl ?_ (runNext_withAgenda width s s l)
  by_cases h : cond = .link
  · subst h
    exact runInstr_ok_withAgenda width s ((writeLink width s).setPc (s.pc + disp)) l .none
  · rw [if_neg h, if_neg h]
    exact runInstr_ok_withAgenda width s (s.setPc (s.pc + disp)) l .none

theorem loadAt_withAgenda (l : List Event) (s : State) (width : Nat) (rd : RegIdx) (ea : Word) (size : Size) :
    loadAt width (s.withAgenda l) rd ea size =
      mapNext (·.withAgenda l) (loadAt width s rd ea size) := by
  unfold loadAt
  rw [loadN_withAgenda]
  exact runBind_withAgenda width s l _ fun t => rfl

theorem loadPost_withAgenda (l : List Event) (s : State) (width : Nat) (rd rn : RegIdx) (b : Word) (size : Size) :
    loadPost width (s.withAgenda l) rd rn b size =
      mapNext (·.withAgenda l) (loadPost width s rd rn b size) := by
  unfold loadPost
  split
  · rfl
  · rw [loadN_withAgenda]
    exact runBind_withAgenda width s l _ fun t => rfl

theorem storeAt_withAgenda (l : List Event) (s : State) (width : Nat) (rd : RegIdx) (ea : Word) (size : Size) :
    storeAt width (s.withAgenda l) rd ea size =
      mapNext (·.withAgenda l) (storeAt width s rd ea size) := by
  unfold storeAt
  rw [storeN_withAgenda]
  exact runBind_withAgenda width s l _ fun t => rfl

theorem storePost_withAgenda (l : List Event) (s : State) (width : Nat) (rd rn : RegIdx) (b : Word) (size : Size) :
    storePost width (s.withAgenda l) rd rn b size =
      mapNext (·.withAgenda l) (storePost width s rd rn b size) := by
  unfold storePost
  rw [storeN_withAgenda]
  exact runBind_withAgenda width s l _ fun t => rfl

theorem jumpReg_withAgenda (l : List Event) (s : State) (width : Nat) (rn : RegIdx) :
    jumpReg width (s.withAgenda l) rn = mapNext (·.withAgenda l) (jumpReg width s rn) :=
  runInstr_ok_withAgenda width s (s.setPc (s.reg rn)) l .none

theorem jumpLink_withAgenda (l : List Event) (s : State) (width : Nat) (rn : RegIdx) :
    jumpLink width (s.withAgenda l) rn = mapNext (·.withAgenda l) (jumpLink width s rn) :=
  runInstr_ok_withAgenda width s ((writeLink width s).setPc (s.reg rn)) l .none

/-- No instruction reads or writes the agenda. -/
theorem exec_withAgenda (i : Instr) (s : State) (l : List Event) :
    exec i (s.withAgenda l) = mapNext (·.withAgenda l) (exec i s) := by
  cases i with
  | bcond16 simm8 cond => exact branchIf_withAgenda l s 2 cond (branchDisp simm8)
  | bcond32 simm24 cond => exact branchIf_withAgenda l s 4 cond (branchDisp simm24)
  | ldrIndex16 rd rn rm size =>
    exact loadAt_withAgenda l s 2 (lowReg rd) (indexAddr s (lowReg rn) (lowReg rm) false) size
  | ldrIndex32 rd rn rm size sub => exact loadAt_withAgenda l s 4 rd (indexAddr s rn rm sub) size
  | ldrPost16 rd rn rm size =>
    exact loadPost_withAgenda l s 2 (lowReg rd) (lowReg rn) (indexAddr s (lowReg rn) (lowReg rm) false) size
  | ldrPost32 rd rn rm size sub => exact loadPost_withAgenda l s 4 rd rn (indexAddr s rn rm sub) size
  | ldrDisp16 rd rn imm3 size =>
    exact loadAt_withAgenda l s 2 (lowReg rd) (dispAddr s (lowReg rn) imm3 size false) size
  | ldrDisp32 rd rn imm11 size sub => exact loadAt_withAgenda l s 4 rd (dispAddr s rn imm11 size sub) size
  | ldrDispPost rd rn imm11 size sub => exact loadPost_withAgenda l s 4 rd rn (dispAddr s rn imm11 size sub) size
  | strIndex16 rd rn rm size =>
    exact storeAt_withAgenda l s 2 (lowReg rd) (indexAddr s (lowReg rn) (lowReg rm) false) size
  | strIndex32 rd rn rm size sub => exact storeAt_withAgenda l s 4 rd (indexAddr s rn rm sub) size
  | strPost16 rd rn rm size =>
    exact storePost_withAgenda l s 2 (lowReg rd) (lowReg rn) (indexAddr s (lowReg rn) (lowReg rm) false) size
  | strPost32 rd rn rm size sub => exact storePost_withAgenda l s 4 rd rn (indexAddr s rn rm sub) size
  | strDisp16 rd rn imm3 size =>
    exact storeAt_withAgenda l s 2 (lowReg rd) (dispAddr s (lowReg rn) imm3 size false) size
  | strDisp32 rd rn imm11 size sub => exact storeAt_withAgenda l s 4 rd (dispAddr s rn imm11 size sub) size
  | strDispPost rd rn imm11 size sub => exact storePost_withAgenda l s 4 rd rn (dispAddr s rn imm11 size sub) size
  | testset _ _ _ _ =>
    exact (congrArg (fun r => runInstr 4 _ (Res.bind r _)) (testSet_withAgenda s l s.self _ _)).trans
      (runBind_withAgenda 4 s l _ fun _ => rfl)
  | movImm16 rd imm8 => exact runNext_withAgenda 2 s (s.setReg (lowReg rd) (zextImm imm8)) l
  | movImm32 rd imm16 => exact runNext_withAgenda 4 s (s.setReg rd (zextImm imm16)) l
  | movt rd imm16 =>
    exact runNext_withAgenda 4 s (s.setReg rd ((zextImm imm16 <<< 16) ||| (s.reg rd &&& 0x0000FFFF#32))) l
  | addImm16 rd rn simm3 => exact aluImm_withAgenda l s 2 .add (lowReg rd) (lowReg rn) (sextImm simm3)
  | addImm32 rd rn simm11 => exact aluImm_withAgenda l s 4 .add rd rn (sextImm simm11)
  | subImm16 rd rn simm3 => exact aluImm_withAgenda l s 2 .sub (lowReg rd) (lowReg rn) (sextImm simm3)
  | subImm32 rd rn simm11 => exact aluImm_withAgenda l s 4 .sub rd rn (sextImm simm11)
  | eor16 rd rn rm => exact aluReg_withAgenda l s 2 .eor (lowReg rd) (lowReg rn) (lowReg rm)
  | eor32 rd rn rm => exact aluReg_withAgenda l s 4 .eor rd rn rm
  | add16 rd rn rm => exact aluReg_withAgenda l s 2 .add (lowReg rd) (lowReg rn) (lowReg rm)
  | add32 rd rn rm => exact aluReg_withAgenda l s 4 .add rd rn rm
  | lsl16 rd rn rm => exact aluReg_withAgenda l s 2 .lsl (lowReg rd) (lowReg rn) (lowReg rm)
  | lsl32 rd rn rm => exact aluReg_withAgenda l s 4 .lsl rd rn rm
  | sub16 rd rn rm => exact aluReg_withAgenda l s 2 .sub (lowReg rd) (lowReg rn) (lowReg rm)
  | sub32 rd rn rm => exact aluReg_withAgenda l s 4 .sub rd rn rm
  | lsr16 rd rn rm => exact aluReg_withAgenda l s 2 .lsr (lowReg rd) (lowReg rn) (lowReg rm)
  | lsr32 rd rn rm => exact aluReg_withAgenda l s 4 .lsr rd rn rm
  | and16 rd rn rm => exact aluReg_withAgenda l s 2 .and (lowReg rd) (lowReg rn) (lowReg rm)
  | and32 rd rn rm => exact aluReg_withAgenda l s 4 .and rd rn rm
  | asr16 rd rn rm => exact aluReg_withAgenda l s 2 .asr (lowReg rd) (lowReg rn) (lowReg rm)
  | asr32 rd rn rm => exact aluReg_withAgenda l s 4 .asr rd rn rm
  | orr16 rd rn rm => exact aluReg_withAgenda l s 2 .orr (lowReg rd) (lowReg rn) (lowReg rm)
  | orr32 rd rn rm => exact aluReg_withAgenda l s 4 .orr rd rn rm
  | lsrImm16 rd rn imm5 => exact aluImm_withAgenda l s 2 .lsr (lowReg rd) (lowReg rn) (zextImm imm5)
  | lsrImm32 rd rn imm5 => exact aluImm_withAgenda l s 4 .lsr rd rn (zextImm imm5)
  | lslImm16 rd rn imm5 => exact aluImm_withAgenda l s 2 .lsl (lowReg rd) (lowReg rn) (zextImm imm5)
  | lslImm32 rd rn imm5 => exact aluImm_withAgenda l s 4 .lsl rd rn (zextImm imm5)
  | asrImm16 rd rn imm5 => exact aluImm_withAgenda l s 2 .asr (lowReg rd) (lowReg rn) (zextImm imm5)
  | asrImm32 rd rn imm5 => exact aluImm_withAgenda l s 4 .asr rd rn (zextImm imm5)
  | bitr16 rd rn => exact bitr_withAgenda l s 2 (lowReg rd) (lowReg rn)
  | bitr32 rd rn => exact bitr_withAgenda l s 4 rd rn
  | fadd16 rd rn rm => exact floatArith_withAgenda l s 2 .fadd (lowReg rd) (lowReg rn) (lowReg rm)
  | fadd32 rd rn rm => exact floatArith_withAgenda l s 4 .fadd rd rn rm
  | fsub16 rd rn rm => exact floatArith_withAgenda l s 2 .fsub (lowReg rd) (lowReg rn) (lowReg rm)
  | fsub32 rd rn rm => exact floatArith_withAgenda l s 4 .fsub rd rn rm
  | fmul16 rd rn rm => exact floatArith_withAgenda l s 2 .fmul (lowReg rd) (lowReg rn) (lowReg rm)
  | fmul32 rd rn rm => exact floatArith_withAgenda l s 4 .fmul rd rn rm
  | fmadd16 rd rn rm => exact floatFma_withAgenda l s 2 .fmadd (lowReg rd) (lowReg rn) (lowReg rm)
  | fmadd32 rd rn rm => exact floatFma_withAgenda l s 4 .fmadd rd rn rm
  | fmsub16 rd rn rm => exact floatFma_withAgenda l s 2 .fmsub (lowReg rd) (lowReg rn) (lowReg rm)
  | fmsub32 rd rn rm => exact floatFma_withAgenda l s 4 .fmsub rd rn rm
  | float16 rd rn _ => exact floatFromInt_withAgenda l s 2 (lowReg rd) (lowReg rn)
  | float32 rd rn _ => exact floatFromInt_withAgenda l s 4 rd rn
  | fix16 rd rn _ => exact floatToInt_withAgenda l s 2 (lowReg rd) (lowReg rn)
  | fix32 rd rn _ => exact floatToInt_withAgenda l s 4 rd rn
  | fabs16 rd rn _ => exact floatAbs_withAgenda l s 2 (lowReg rd) (lowReg rn)
  | fabs32 rd rn _ => exact floatAbs_withAgenda l s 4 rd rn
  | movCond16 rd rn cond => exact movIf_withAgenda l s 2 cond (lowReg rd) (lowReg rn)
  | movCond32 rd rn cond => exact movIf_withAgenda l s 4 cond rd rn
  | movts16 rd sn => exact moveToCtl_withAgenda l s 2 0 (lowReg sn) (lowReg rd)
  | movts32 rd sn group => exact moveToCtl_withAgenda l s 4 group sn rd
  | movfs16 rd sn => exact moveFromCtl_withAgenda l s 2 0 (lowReg sn) (lowReg rd)
  | movfs32 rd sn group => exact moveFromCtl_withAgenda l s 4 group sn rd
  | jr16 rn => exact jumpReg_withAgenda l s 2 (lowReg rn)
  | jr32 rn => exact jumpReg_withAgenda l s 4 rn
  | jalr16 rn => exact jumpLink_withAgenda l s 2 (lowReg rn)
  | jalr32 rn => exact jumpLink_withAgenda l s 4 rn
  | wand => exact (congrArg (runNext 2 _) (wandEffect_withAgenda s l)).trans (runNext_withAgenda 2 s _ l)
  | gie => exact runNext_withAgenda 2 s (s.setFlag bitGid false) l
  | nop => exact runNext_withAgenda 2 s s l
  | idle => exact runInstr_ok_withAgenda 2 s s l .idle
  | bkpt => exact runNext_withAgenda 2 s (s.setCtl .debugStatus (setBit (s.ctl .debugStatus) bitHalt true)) l
  | rti => exact runInstr_ok_withAgenda 2 s (rtiEffect s) l .none
  | sync =>
    exact (congrArg (runNext 2 _) (forCores_withAgenda l (fun _ _ => rfl) _ s)).trans (runNext_withAgenda 2 s _ l)
  | gid => exact runNext_withAgenda 2 s (s.setFlag bitGid true) l
  | mbkpt =>
    exact (congrArg (runNext 2 _) (forCores_withAgenda l (fun _ _ => rfl) _ s)).trans (runNext_withAgenda 2 s _ l)
  | swi _ => exact runNext_withAgenda 2 s (trigger s s.self irqUser (some .softwareInterrupt)) l
  | trap trapnum =>
    exact (congrArg (runInstr 2 _) (trapEffect_withAgenda s l trapnum)).trans (runInstr_withAgenda 2 s l _)

end Sys2Proof.Machine
end

