-- ==== Sys2Proof/Laws/Float.lean ====
section
/-! SUPPORT. Laws of `FpNumerics` by version: the default instance ignores `ARCH`, and what another numeric path can
give. -/

namespace Sys2Proof.Machine

@[simp] theorem ruleFp_options (arch : Arch) : ruleFp.options arch = ruleOptions := by cases arch <;> rfl

theorem fpArith_ruleFp (arch : Arch) (op : FpArithOp) (trunc free : Bool) (a b c : Word) :
    fpArith ruleFp arch op trunc free a b c = rulePath ruleOptions op trunc free a b c := by cases arch <;> rfl

theorem floatOf_ruleFp (arch : Arch) (trunc : Bool) (a : Word) :
    floatOf ruleFp arch trunc a = fpFloat ruleOptions trunc a := by cases arch <;> rfl

theorem fixOf_ruleFp (arch : Arch) (trunc : Bool) (a : Word) : fixOf ruleFp arch trunc a = fpFix trunc a := by
  cases arch <;> rfl

theorem absOf_ruleFp (arch : Arch) (trunc : Bool) (a : Word) : absOf ruleFp arch trunc a = fpAbs ruleOptions a := by
  cases arch <;> rfl

/-- The word `FpArith` returns on another path: a quiet NaN where an operand is a NaN, else some flushed word. -/
theorem otherPath_word (fp : FpConfig) (arch : Arch) (op : FpArithOp) (trunc free : Bool) (a b c : Word) :
    (nanOperand op a b c = true → (otherPath fp arch op trunc free a b c).word = qNaN fp (nanSignOf op free a b)) ∧
    (nanOperand op a b c = false → ∃ w, (otherPath fp arch op trunc free a b c).word = flushIn w) :=
  ⟨fun h => if_pos h, fun h => ⟨_, if_neg (by simp [h])⟩⟩

/-- FIX on every path: where the rule's result is not saturated it is that result. -/
theorem fixOf_word (n : FpNumerics) (arch : Arch) (trunc : Bool) (a : Word) (h : (fpFix trunc a).invalid = false) :
    (fixOf n arch trunc a).word = (fpFix trunc a).word := by
  have hn : isNaN a = false := by
    cases hn : isNaN a
    · rfl
    · simp [fpFix, hn] at h
  unfold fixOf
  split
  · simp [otherFix, hn, h]
  · rfl

/-- FIX of a NaN on every path: one of the two bounds (R285 (d)). -/
theorem fixOf_nan (n : FpNumerics) (arch : Arch) (trunc : Bool) (a : Word) (h : isNaN a = true) :
    (fixOf n arch trunc a).word = 0x7FFFFFFF#32 ∨ (fixOf n arch trunc a).word = 0x80000000#32 := by
  unfold fixOf
  split
  · simp only [otherFix, h, if_true]
    split <;> simp
  · simp only [fpFix, h, Bool.true_or, if_true]
    split <;> simp

end Sys2Proof.Machine
end

