-- ==== Sys2Proof/Laws/Invariant.lean ====
section
/-! SUPPORT. Every operation on a core, on a memory and on the machine keeps the invariant of the state. -/

namespace Sys2Proof.Machine

/-! ## One core -/

theorem ECore.wf_iff (x : ECore) (w : RegWindow) : x.wf w = true ↔
    mapWf x.window = true ∧ (∀ p ∈ x.window, p.1 < w.size / 4) ∧
      Memory.wf x.mem = true ∧ ∀ p ∈ x.mem, p.1 < localSize ∧ inWindow w p.1 = false := by
  simp [ECore.wf, List.all_eq_true, and_assoc]

variable {w : RegWindow}

theorem wf_reset : ECore.reset.wf w = true := rfl

theorem wf_setWord {x : ECore} (h : x.wf w = true) {k : Nat} (hk : k < w.size / 4) (v : Word) :
    (x.setWord k v).wf w = true := by
  rw [ECore.wf_iff] at h ⊢
  refine ⟨mapWf_mapSet k v h.1, fun p hp => ?_, h.2.2⟩
  rcases mem_mapSet hp with rfl | hp
  · exact hk
  · exact h.2.1 p hp

/-- The window has room for words 0 to 511, every register of R30 among them. -/
theorem windowOk_room (ho : windowOk w = true) {k : Nat} (hk : k < 512) : k < w.size / 4 := by
  rw [windowOk_iff] at ho
  omega

theorem wf_setCtl (ho : windowOk w = true) {x : ECore} (h : x.wf w = true) (r : Ctl) (v : Word) :
    (x.setCtl r v).wf w = true :=
  wf_setWord h (windowOk_room ho r.index_lt) v

theorem wf_clearWindow {x : ECore} (h : x.wf w = true) : ECore.wf { x with window := [] } w = true := by
  rw [ECore.wf_iff] at h ⊢
  exact ⟨rfl, by simp, h.2.2⟩

theorem wf_writeWord (ho : windowOk w = true) {x : ECore} (h : x.wf w = true) {k : Nat} (hk : k < w.size / 4) (v : Word) :
    (x.writeWord k v).wf w = true := by
  unfold ECore.writeWord
  by_cases h1 : k = Ctl.index .status
  · rw [if_pos h1]; exact wf_setCtl ho h _ _
  rw [if_neg h1]
  by_cases h2 : k = Ctl.index .fstatus
  · rw [if_pos h2]; exact wf_setCtl ho (wf_setCtl ho h _ _) _ _
  rw [if_neg h2]
  by_cases h3 : k = Ctl.index .ilatSt
  · rw [if_pos h3]; exact wf_setCtl ho (wf_setCtl ho h _ _) _ _
  rw [if_neg h3]
  by_cases h4 : k = Ctl.index .ilatCl
  · rw [if_pos h4]; exact wf_setCtl ho (wf_setCtl ho h _ _) _ _
  rw [if_neg h4]
  by_cases h5 : k = Ctl.index .debugCmd
  · rw [if_pos h5]
    refine wf_setCtl ho ?_ _ _
    split
    · exact wf_setCtl ho h _ _
    · split
      · exact wf_setCtl ho h _ _
      · exact h
  rw [if_neg h5]
  by_cases h6 : k = Ctl.index .resetCore
  · rw [if_pos h6]
    refine wf_setCtl ho ?_ _ _
    split
    · exact h
    · exact wf_clearWindow h
  rw [if_neg h6]
  exact wf_setWord h hk v

/-- A write of some bytes keeps a byte array canonical, and adds no key but those written. -/
theorem wf_writeBytes {m : List Host.Cell} (h : Memory.wf m = true) (off : Nat) (v : Word) (size : Access) :
    Memory.wf (writeBytes m off v size) = true ∧
      ∀ p ∈ writeBytes m off v size, p ∈ m ∨ (off ≤ p.1 ∧ p.1 < off + accessBytes size) := by
  have one : ∀ {n : List Host.Cell} (k : Nat) (b : Byte), Memory.wf n = true → Memory.wf (mapSet n k b) = true :=
    fun k b hn => mapWf_mapSet k b hn
  cases size with
  | b1 =>
    refine ⟨one _ _ h, fun p hp => ?_⟩
    rcases mem_mapSet hp with rfl | hp
    · right; simp [accessBytes]
    · exact .inl hp
  | b2 =>
    refine ⟨one _ _ (one _ _ h), fun p hp => ?_⟩
    rcases mem_mapSet hp with rfl | hp
    · right; simp [accessBytes]
    rcases mem_mapSet hp with rfl | hp
    · right; simp [accessBytes]
    · exact .inl hp
  | b4 =>
    refine ⟨one _ _ (one _ _ (one _ _ (one _ _ h))), fun p hp => ?_⟩
    rcases mem_mapSet hp with rfl | hp
    · right; simp [accessBytes]
    rcases mem_mapSet hp with rfl | hp
    · right; simp [accessBytes]
    rcases mem_mapSet hp with rfl | hp
    · right; simp [accessBytes]
    rcases mem_mapSet hp with rfl | hp
    · right; simp [accessBytes]
    · exact .inl hp

theorem wf_writeMem (ho : windowOk w = true) {x : ECore} (h : x.wf w = true) {off : Nat} (size : Access) (v : Word)
    (hw : inWindow w off = false) (ha : off % accessBytes size = 0) (hb : off + accessBytes size ≤ localSize) :
    ECore.wf { x with mem := writeBytes x.mem off v size } w = true := by
  rw [ECore.wf_iff] at h ⊢
  obtain ⟨h1, h2⟩ := wf_writeBytes h.2.2.1 off v size
  refine ⟨h.1, h.2.1, h1, fun p hp => ?_⟩
  rcases h2 p hp with hp | ⟨hl, hr⟩
  · exact h.2.2.2 p hp
  · obtain ⟨d, hd⟩ := Nat.exists_eq_add_of_le hl
    refine ⟨by omega, ?_⟩
    rw [hd, inWindow_add ho size ha (by omega), hw]

/-- A write of local memory, in its bounds, keeps the core well-formed. -/
theorem wf_store (ho : windowOk w = true) {x y : ECore} (h : x.wf w = true) {off : Nat} {size : Access} {v : Word}
    (ha : off % accessBytes size = 0) (hb : off + accessBytes size ≤ localSize)
    (hs : x.store w off size v = some y) : y.wf w = true := by
  cases hw : inWindow w off with
  | false =>
    rw [x.store_plain size v hw] at hs
    cases hs
    exact wf_writeMem ho h size v hw ha hb
  | true =>
    have hk : windowIndex w off < w.size / 4 :=
      (window_add ho (j := 0) size hw ha (by rcases accessBytes_cases size with e | e | e <;> omega)).2.2.2
    unfold ECore.store at hs
    simp only [hw, if_true] at hs
    cases size with
    | b4 => simp only [Option.some.injEq] at hs; exact hs ▸ wf_writeWord ho h hk v
    | b1 =>
      simp only at hs
      split at hs
      · simp at hs
      · simp only [Option.some.injEq] at hs; exact hs ▸ wf_setWord h hk _
    | b2 =>
      simp only at hs
      split at hs
      · simp at hs
      · simp only [Option.some.injEq] at hs; exact hs ▸ wf_setWord h hk _

theorem wf_latch (ho : windowOk w = true) {x : ECore} (h : x.wf w = true) (cfg : Config) (irq : Fin 9)
    (cause : Option Cause) :
    (x.latch cfg irq cause).wf w = true := by
  cases cause
  · exact wf_setCtl ho h _ _
  · exact wf_setCtl ho (wf_setCtl ho h _ _) _ _

theorem wf_enterInterrupt (ho : windowOk w = true) {x : ECore} (h : x.wf w = true) (cfg : Config) (i : Nat) :
    (enterInterrupt cfg x i).wf w = true :=
  wf_setCtl ho (wf_setCtl ho (wf_setCtl ho (wf_setCtl ho (wf_setCtl ho h _ _) _ _) _ _) _ _) _ _

theorem wf_leaveInterrupt (ho : windowOk w = true) {x : ECore} (h : x.wf w = true) : (leaveInterrupt x).wf w = true := by
  unfold leaveInterrupt
  split
  · exact wf_setCtl ho (wf_setCtl ho (wf_setCtl ho h _ _) _ _) _ _
  · exact wf_setCtl ho (wf_setCtl ho h _ _) _ _

/-! ## The grid -/

theorem keysAbove_of_forall {α : Type} {a : Nat} {m : List (Nat × α)} (h : ∀ p ∈ m, a < p.1) :
    keysAbove a m = true := by
  induction m with
  | nil => rfl
  | cons p m ih =>
    obtain ⟨c, x⟩ := p
    simp only [keysAbove, Bool.and_eq_true, decide_eq_true_eq]
    exact ⟨h (c, x) List.mem_cons_self, ih fun q hq => h q (List.mem_cons_of_mem _ hq)⟩

/-- Keys that are pairwise rising rise. -/
theorem keysRising_of_pairwise {α : Type} {m : List (Nat × α)} (h : (m.map Prod.fst).Pairwise (· < ·)) :
    keysRising m = true := by
  induction m with
  | nil => rfl
  | cons p m ih =>
    obtain ⟨c, x⟩ := p
    simp only [List.map_cons, List.pairwise_cons] at h
    simp only [keysRising, Bool.and_eq_true]
    exact ⟨keysAbove_of_forall fun q hq => h.1 q.1 (List.mem_map_of_mem hq), ih h.2⟩

theorem configOk_cols {cfg : Config} (h : configOk cfg = true) : cfg.cols ≤ 64 := by
  simp only [configOk, Bool.and_eq_true, decide_eq_true_eq] at h
  omega

theorem gridKeys_rising {cfg : Config} (h : configOk cfg = true) : (gridKeys cfg).Pairwise (· < ·) := by
  have hc := configOk_cols h
  unfold gridKeys
  generalize cfg.rows = n
  induction n with
  | zero => simp
  | succ n ih =>
    rw [List.range_succ, List.flatMap_append, List.pairwise_append]
    refine ⟨ih, ?_, ?_⟩
    · simp only [List.flatMap_cons, List.flatMap_nil, List.append_nil]
      rw [List.pairwise_map]
      exact List.pairwise_lt_range.imp fun h => by omega
    · intro a ha b hb
      simp only [List.mem_flatMap, List.mem_map, List.mem_range, List.mem_cons, List.not_mem_nil, or_false] at ha hb
      obtain ⟨r, hr, c, hc1, rfl⟩ := ha
      obtain ⟨r', rfl, c', hc2, rfl⟩ := hb
      have : r * 64 + 64 ≤ r' * 64 := by omega
      omega

theorem key_mem_gridKeys {cfg : Config} {c : CoreId} (h : inGrid cfg c = true) : c.key ∈ gridKeys cfg := by
  simp only [inGrid, Bool.and_eq_true, decide_eq_true_eq] at h
  simp only [gridKeys, List.mem_flatMap, List.mem_map, List.mem_range]
  exact ⟨c.row.toNat, h.1, c.col.toNat, h.2, rfl⟩

/-! ## The machine -/

theorem inv_window {s : State} (h : s.Inv) : windowOk s.cfg.window = true := configOk_window h.config

theorem inv_core {s : State} (h : s.Inv) {c : CoreId} (hc : inGrid s.cfg c = true) : (s.core c).wf s.cfg.window = true :=
  h.cores (c.key, s.core c) (mapGet_mem _ (by rw [h.keys]; exact key_mem_gridKeys hc))

theorem inv_me {s : State} (h : s.Inv) : s.me.wf s.cfg.window = true := inv_core h h.self

/-- Replacing a core of the grid by a well-formed one keeps the invariant. -/
theorem inv_setCore {s : State} (h : s.Inv) {c : CoreId} (hc : inGrid s.cfg c = true) {x : ECore} (hx : x.wf s.cfg.window = true) :
    (s.setCore c x).Inv where
  config := h.config
  self := h.self
  keys := by
    show (mapPut s.cores c.key x).map Prod.fst = gridKeys s.cfg
    rw [keys_mapPut x (keysRising_of_pairwise (by rw [h.keys]; exact gridKeys_rising h.config))
      (by rw [h.keys]; exact key_mem_gridKeys hc), h.keys]
  cores p hp := by
    rcases mem_mapPut hp with rfl | hp
    · exact hx
    · exact h.cores p hp
  ext := h.ext
  extBound := h.extBound

theorem inv_modMe {s : State} (h : s.Inv) {f : ECore → ECore} (hf : (f s.me).wf s.cfg.window = true) : (s.modMe f).Inv :=
  inv_setCore h h.self hf

theorem inv_setReg {s : State} (h : s.Inv) (i : RegIdx) (v : Word) : (s.setReg i v).Inv :=
  inv_modMe h (wf_setWord (inv_me h) (windowOk_room (inv_window h) (by have := i.isLt; omega)) v)

theorem inv_setCtl {s : State} (h : s.Inv) (r : Ctl) (v : Word) : (s.setCtl r v).Inv :=
  inv_modMe h (wf_setCtl (inv_window h) (inv_me h) r v)

theorem inv_setPc {s : State} (h : s.Inv) (v : Word) : (s.setPc v).Inv := inv_setCtl h .pc v

theorem inv_setFlag {s : State} (h : s.Inv) (b : Nat) (v : Bool) : (s.setFlag b v).Inv := inv_setCtl h .status _

theorem inv_note {s : State} (h : s.Inv) (n : Note) : (s.note n).Inv :=
  inv_modMe (f := fun c => { c with notes := n :: c.notes }) h (inv_me h)

theorem inv_halt {s : State} (h : s.Inv) (n : Note) : (halt s n).Inv := inv_note (inv_setFlag h _ _) n

theorem inv_trigger {s : State} (h : s.Inv) {c : CoreId} (hc : inGrid s.cfg c = true) (irq : Fin 9)
    (cause : Option Cause) : (trigger s c irq cause).Inv := inv_setCore h hc (wf_latch (inv_window h) (inv_core h hc) _ _ _)

theorem inv_complete {s : State} (h : s.Inv) (width : Nat) (a : Word) (sig : Signal) : (complete width a sig s).Inv := by
  have hi : (applyIdle sig s).Inv := by
    cases sig
    · exact h
    · exact h
    · exact inv_modMe (f := fun c => { c with idle := true }) h (inv_me h)
  refine inv_note ?_ _
  unfold applySignal
  split
  · exact inv_setPc (inv_setCtl hi _ _) _
  · cases sig
    · exact inv_setPc hi _
    · exact hi
    · exact inv_setPc hi _

/-- What a memory write keeps, whoever issues it: the machine but for cores and external memory, and of every core all
but its memory and window. -/
theorem memWrite_keeps {s t : State} {c : CoreId} {a : Word} {size : Access} {v : Word}
    (h : memWrite s c a size v = .ok t) : t.cfg = s.cfg ∧ t.halting = s.halting ∧ t.self = s.self ∧
      t.agenda = s.agenda ∧ t.fresh = s.fresh ∧ ∀ d, (t.core d).idle = (s.core d).idle ∧
        (t.core d).passed = (s.core d).passed ∧ (t.core d).failed = (s.core d).failed ∧
        (t.core d).exitCode = (s.core d).exitCode ∧ (t.core d).notes = (s.core d).notes := by
  unfold memWrite at h
  split at h
  · split at h
    · split at h
      · cases h; exact ⟨rfl, rfl, rfl, rfl, rfl, fun _ => ⟨rfl, rfl, rfl, rfl, rfl⟩⟩
      · next d off _ =>
        split at h
        · next x hx =>
          cases h
          refine ⟨rfl, rfl, rfl, rfl, rfl, fun e => ?_⟩
          rw [State.core_setCore]
          by_cases he : e = d
          · subst he; rw [if_pos rfl]; exact ECore.store_rest hx
          · rw [if_neg he]; exact ⟨rfl, rfl, rfl, rfl, rfl⟩
        · cases h
      · cases h
    · cases h
  · cases h

/-- A memory write issued as a core of the grid keeps the invariant. -/
theorem inv_memWrite {s t : State} (h : s.Inv) {c : CoreId} (hc : inGrid s.cfg c = true) {a : Word} {size : Access}
    {v : Word} (hw : memWrite s c a size v = .ok t) : t.Inv := by
  unfold memWrite at hw
  split at hw
  · next ha =>
    split at hw
    · next hb =>
      split at hw
      · next off ht =>
        cases hw
        obtain ⟨h1, h2⟩ := wf_writeBytes h.ext off v size
        rw [ht] at hb
        have hb' : off + accessBytes size ≤ s.cfg.extSize := by simpa [inBounds] using hb
        refine ⟨h.config, h.self, h.keys, h.cores, h1, fun p hp => ?_⟩
        rcases h2 p hp with hp | ⟨-, hr⟩
        · exact h.extBound p hp
        · show p.1 < s.cfg.extSize
          omega
      · next d off ht =>
        split at hw
        · next x hx =>
          cases hw
          have hd : inGrid s.cfg d = true := by
            obtain ⟨-, h2 | h2, -⟩ := translate_core ht
            · rw [h2]; exact hc
            · exact h2
          obtain ⟨e1, e2⟩ := aligned_core ht (by rcases accessBytes_cases size with e | e | e <;> rw [e] <;> decide) ha
          exact inv_setCore h hd (wf_store (inv_window h) (inv_core h hd) e1 e2 hx)
        · cases hw
      · cases hw
    · cases hw
  · cases hw

/-- A test-and-set keeps the invariant, and all that a memory write keeps. -/
theorem inv_testSet {s : State} (h : s.Inv) {c : CoreId} (hc : inGrid s.cfg c = true) {a v : Word}
    {p : Word × State} (hw : testSet s c a v = .ok p) : p.2.Inv := by
  unfold testSet at hw
  split at hw
  · next ha =>
    split at hw
    · next d off ht =>
      split at hw
      · cases hw
      · split at hw
        · cases hw
        · next hwin =>
          simp only [Res.ok.injEq] at hw
          have hd : inGrid s.cfg d = true := by
            obtain ⟨-, h2 | h2, -⟩ := translate_core ht
            · rw [h2]; exact hc
            · exact h2
          obtain ⟨e1, e2⟩ := aligned_core ht (by decide) ha
          subst hw
          show State.Inv (if _ then _ else _)
          split
          · exact inv_setCore h hd (wf_writeMem (inv_window h) (inv_core h hd) .b4 v (by simpa using hwin) e1 e2)
          · exact h
    · cases hw
  · cases hw

end Sys2Proof.Machine
end

