-- ==== Sys2Proof/Laws/PerInstr.lean ====
section
/-! SUPPORT. Statements made once per instruction: one lemma for each constructor of `Instr`. -/

namespace Sys2Proof.Laws

/-- The bytes of an instruction's encoding are as many as its width (R120). -/
def EncodingLength.Statement (i : Instr) : Prop := i.bytes.length = i.width

theorem EncodingLength.bcond16 (simm8 : BitVec 8) (cond : Cond) :
    EncodingLength.Statement (.bcond16 simm8 cond) := rfl

theorem EncodingLength.bcond32 (simm24 : BitVec 24) (cond : Cond) :
    EncodingLength.Statement (.bcond32 simm24 cond) := rfl

theorem EncodingLength.ldrIndex16 (rd : RegLow) (rn : RegLow) (rm : RegLow) (size : Size) :
    EncodingLength.Statement (.ldrIndex16 rd rn rm size) := rfl

theorem EncodingLength.ldrIndex32 (rd : RegIdx) (rn : RegIdx) (rm : RegIdx) (size : Size) (sub : Bool) :
    EncodingLength.Statement (.ldrIndex32 rd rn rm size sub) := rfl

theorem EncodingLength.ldrPost16 (rd : RegLow) (rn : RegLow) (rm : RegLow) (size : Size) :
    EncodingLength.Statement (.ldrPost16 rd rn rm size) := rfl

theorem EncodingLength.ldrPost32 (rd : RegIdx) (rn : RegIdx) (rm : RegIdx) (size : Size) (sub : Bool) :
    EncodingLength.Statement (.ldrPost32 rd rn rm size sub) := rfl

theorem EncodingLength.ldrDisp16 (rd : RegLow) (rn : RegLow) (imm3 : BitVec 3) (size : Size) :
    EncodingLength.Statement (.ldrDisp16 rd rn imm3 size) := rfl

theorem EncodingLength.ldrDisp32 (rd : RegIdx) (rn : RegIdx) (imm11 : BitVec 11) (size : Size) (sub : Bool) :
    EncodingLength.Statement (.ldrDisp32 rd rn imm11 size sub) := rfl

theorem EncodingLength.ldrDispPost (rd : RegIdx) (rn : RegIdx) (imm11 : BitVec 11) (size : Size) (sub : Bool) :
    EncodingLength.Statement (.ldrDispPost rd rn imm11 size sub) := rfl

theorem EncodingLength.strIndex16 (rd : RegLow) (rn : RegLow) (rm : RegLow) (size : Size) :
    EncodingLength.Statement (.strIndex16 rd rn rm size) := rfl

theorem EncodingLength.strIndex32 (rd : RegIdx) (rn : RegIdx) (rm : RegIdx) (size : Size) (sub : Bool) :
    EncodingLength.Statement (.strIndex32 rd rn rm size sub) := rfl

theorem EncodingLength.strPost16 (rd : RegLow) (rn : RegLow) (rm : RegLow) (size : Size) :
    EncodingLength.Statement (.strPost16 rd rn rm size) := rfl

theorem EncodingLength.strPost32 (rd : RegIdx) (rn : RegIdx) (rm : RegIdx) (size : Size) (sub : Bool) :
    EncodingLength.Statement (.strPost32 rd rn rm size sub) := rfl

theorem EncodingLength.strDisp16 (rd : RegLow) (rn : RegLow) (imm3 : BitVec 3) (size : Size) :
    EncodingLength.Statement (.strDisp16 rd rn imm3 size) := rfl

theorem EncodingLength.strDisp32 (rd : RegIdx) (rn : RegIdx) (imm11 : BitVec 11) (size : Size) (sub : Bool) :
    EncodingLength.Statement (.strDisp32 rd rn imm11 size sub) := rfl

theorem EncodingLength.strDispPost (rd : RegIdx) (rn : RegIdx) (imm11 : BitVec 11) (size : Size) (sub : Bool) :
    EncodingLength.Statement (.strDispPost rd rn imm11 size sub) := rfl

theorem EncodingLength.testset (rd : RegIdx) (rn : RegIdx) (rm : RegIdx) (sub : Bool) :
    EncodingLength.Statement (.testset rd rn rm sub) := rfl

theorem EncodingLength.movImm16 (rd : RegLow) (imm8 : BitVec 8) :
    EncodingLength.Statement (.movImm16 rd imm8) := rfl

theorem EncodingLength.movImm32 (rd : RegIdx) (imm16 : BitVec 16) :
    EncodingLength.Statement (.movImm32 rd imm16) := rfl

theorem EncodingLength.movt (rd : RegIdx) (imm16 : BitVec 16) :
    EncodingLength.Statement (.movt rd imm16) := rfl

theorem EncodingLength.addImm16 (rd : RegLow) (rn : RegLow) (simm3 : BitVec 3) :
    EncodingLength.Statement (.addImm16 rd rn simm3) := rfl

theorem EncodingLength.addImm32 (rd : RegIdx) (rn : RegIdx) (simm11 : BitVec 11) :
    EncodingLength.Statement (.addImm32 rd rn simm11) := rfl

theorem EncodingLength.subImm16 (rd : RegLow) (rn : RegLow) (simm3 : BitVec 3) :
    EncodingLength.Statement (.subImm16 rd rn simm3) := rfl

theorem EncodingLength.subImm32 (rd : RegIdx) (rn : RegIdx) (simm11 : BitVec 11) :
    EncodingLength.Statement (.subImm32 rd rn simm11) := rfl

theorem EncodingLength.eor16 (rd : RegLow) (rn : RegLow) (rm : RegLow) :
    EncodingLength.Statement (.eor16 rd rn rm) := rfl

theorem EncodingLength.eor32 (rd : RegIdx) (rn : RegIdx) (rm : RegIdx) :
    EncodingLength.Statement (.eor32 rd rn rm) := rfl

theorem EncodingLength.add16 (rd : RegLow) (rn : RegLow) (rm : RegLow) :
    EncodingLength.Statement (.add16 rd rn rm) := rfl

theorem EncodingLength.add32 (rd : RegIdx) (rn : RegIdx) (rm : RegIdx) :
    EncodingLength.Statement (.add32 rd rn rm) := rfl

theorem EncodingLength.lsl16 (rd : RegLow) (rn : RegLow) (rm : RegLow) :
    EncodingLength.Statement (.lsl16 rd rn rm) := rfl

theorem EncodingLength.lsl32 (rd : RegIdx) (rn : RegIdx) (rm : RegIdx) :
    EncodingLength.Statement (.lsl32 rd rn rm) := rfl

theorem EncodingLength.sub16 (rd : RegLow) (rn : RegLow) (rm : RegLow) :
    EncodingLength.Statement (.sub16 rd rn rm) := rfl

theorem EncodingLength.sub32 (rd : RegIdx) (rn : RegIdx) (rm : RegIdx) :
    EncodingLength.Statement (.sub32 rd rn rm) := rfl

theorem EncodingLength.lsr16 (rd : RegLow) (rn : RegLow) (rm : RegLow) :
    EncodingLength.Statement (.lsr16 rd rn rm) := rfl

theorem EncodingLength.lsr32 (rd : RegIdx) (rn : RegIdx) (rm : RegIdx) :
    EncodingLength.Statement (.lsr32 rd rn rm) := rfl

theorem EncodingLength.and16 (rd : RegLow) (rn : RegLow) (rm : RegLow) :
    EncodingLength.Statement (.and16 rd rn rm) := rfl

theorem EncodingLength.and32 (rd : RegIdx) (rn : RegIdx) (rm : RegIdx) :
    EncodingLength.Statement (.and32 rd rn rm) := rfl

theorem EncodingLength.asr16 (rd : RegLow) (rn : RegLow) (rm : RegLow) :
    EncodingLength.Statement (.asr16 rd rn rm) := rfl

theorem EncodingLength.asr32 (rd : RegIdx) (rn : RegIdx) (rm : RegIdx) :
    EncodingLength.Statement (.asr32 rd rn rm) := rfl

theorem EncodingLength.orr16 (rd : RegLow) (rn : RegLow) (rm : RegLow) :
    EncodingLength.Statement (.orr16 rd rn rm) := rfl

theorem EncodingLength.orr32 (rd : RegIdx) (rn : RegIdx) (rm : RegIdx) :
    EncodingLength.Statement (.orr32 rd rn rm) := rfl

theorem EncodingLength.lsrImm16 (rd : RegLow) (rn : RegLow) (imm5 : BitVec 5) :
    EncodingLength.Statement (.lsrImm16 rd rn imm5) := rfl

theorem EncodingLength.lsrImm32 (rd : RegIdx) (rn : RegIdx) (imm5 : BitVec 5) :
    EncodingLength.Statement (.lsrImm32 rd rn imm5) := rfl

theorem EncodingLength.lslImm16 (rd : RegLow) (rn : RegLow) (imm5 : BitVec 5) :
    EncodingLength.Statement (.lslImm16 rd rn imm5) := rfl

theorem EncodingLength.lslImm32 (rd : RegIdx) (rn : RegIdx) (imm5 : BitVec 5) :
    EncodingLength.Statement (.lslImm32 rd rn imm5) := rfl

theorem EncodingLength.asrImm16 (rd : RegLow) (rn : RegLow) (imm5 : BitVec 5) :
    EncodingLength.Statement (.asrImm16 rd rn imm5) := rfl

theorem EncodingLength.asrImm32 (rd : RegIdx) (rn : RegIdx) (imm5 : BitVec 5) :
    EncodingLength.Statement (.asrImm32 rd rn imm5) := rfl

theorem EncodingLength.bitr16 (rd : RegLow) (rn : RegLow) :
    EncodingLength.Statement (.bitr16 rd rn) := rfl

theorem EncodingLength.bitr32 (rd : RegIdx) (rn : RegIdx) :
    EncodingLength.Statement (.bitr32 rd rn) := rfl

theorem EncodingLength.fadd16 (rd : RegLow) (rn : RegLow) (rm : RegLow) :
    EncodingLength.Statement (.fadd16 rd rn rm) := rfl

theorem EncodingLength.fadd32 (rd : RegIdx) (rn : RegIdx) (rm : RegIdx) :
    EncodingLength.Statement (.fadd32 rd rn rm) := rfl

theorem EncodingLength.fsub16 (rd : RegLow) (rn : RegLow) (rm : RegLow) :
    EncodingLength.Statement (.fsub16 rd rn rm) := rfl

theorem EncodingLength.fsub32 (rd : RegIdx) (rn : RegIdx) (rm : RegIdx) :
    EncodingLength.Statement (.fsub32 rd rn rm) := rfl

theorem EncodingLength.fmul16 (rd : RegLow) (rn : RegLow) (rm : RegLow) :
    EncodingLength.Statement (.fmul16 rd rn rm) := rfl

theorem EncodingLength.fmul32 (rd : RegIdx) (rn : RegIdx) (rm : RegIdx) :
    EncodingLength.Statement (.fmul32 rd rn rm) := rfl

theorem EncodingLength.fmadd16 (rd : RegLow) (rn : RegLow) (rm : RegLow) :
    EncodingLength.Statement (.fmadd16 rd rn rm) := rfl

theorem EncodingLength.fmadd32 (rd : RegIdx) (rn : RegIdx) (rm : RegIdx) :
    EncodingLength.Statement (.fmadd32 rd rn rm) := rfl

theorem EncodingLength.fmsub16 (rd : RegLow) (rn : RegLow) (rm : RegLow) :
    EncodingLength.Statement (.fmsub16 rd rn rm) := rfl

theorem EncodingLength.fmsub32 (rd : RegIdx) (rn : RegIdx) (rm : RegIdx) :
    EncodingLength.Statement (.fmsub32 rd rn rm) := rfl

theorem EncodingLength.float16 (rd : RegLow) (rn : RegLow) (rm : RegLow) :
    EncodingLength.Statement (.float16 rd rn rm) := rfl

theorem EncodingLength.float32 (rd : RegIdx) (rn : RegIdx) (rm : RegIdx) :
    EncodingLength.Statement (.float32 rd rn rm) := rfl

theorem EncodingLength.fix16 (rd : RegLow) (rn : RegLow) (rm : RegLow) :
    EncodingLength.Statement (.fix16 rd rn rm) := rfl

theorem EncodingLength.fix32 (rd : RegIdx) (rn : RegIdx) (rm : RegIdx) :
    EncodingLength.Statement (.fix32 rd rn rm) := rfl

theorem EncodingLength.fabs16 (rd : RegLow) (rn : RegLow) (rm : RegLow) :
    EncodingLength.Statement (.fabs16 rd rn rm) := rfl

theorem EncodingLength.fabs32 (rd : RegIdx) (rn : RegIdx) (rm : RegIdx) :
    EncodingLength.Statement (.fabs32 rd rn rm) := rfl

theorem EncodingLength.movCond16 (rd : RegLow) (rn : RegLow) (cond : Cond) :
    EncodingLength.Statement (.movCond16 rd rn cond) := rfl

theorem EncodingLength.movCond32 (rd : RegIdx) (rn : RegIdx) (cond : Cond) :
    EncodingLength.Statement (.movCond32 rd rn cond) := rfl

theorem EncodingLength.movts16 (rd : RegLow) (sn : BitVec 3) :
    EncodingLength.Statement (.movts16 rd sn) := rfl

theorem EncodingLength.movts32 (rd : RegIdx) (sn : BitVec 6) (group : BitVec 2) :
    EncodingLength.Statement (.movts32 rd sn group) := rfl

theorem EncodingLength.movfs16 (rd : RegLow) (sn : BitVec 3) :
    EncodingLength.Statement (.movfs16 rd sn) := rfl

theorem EncodingLength.movfs32 (rd : RegIdx) (sn : BitVec 6) (group : BitVec 2) :
    EncodingLength.Statement (.movfs32 rd sn group) := rfl

theorem EncodingLength.jr16 (rn : RegLow) :
    EncodingLength.Statement (.jr16 rn) := rfl

theorem EncodingLength.jr32 (rn : RegIdx) :
    EncodingLength.Statement (.jr32 rn) := rfl

theorem EncodingLength.jalr16 (rn : RegLow) :
    EncodingLength.Statement (.jalr16 rn) := rfl

theorem EncodingLength.jalr32 (rn : RegIdx) :
    EncodingLength.Statement (.jalr32 rn) := rfl

theorem EncodingLength.wand :
    EncodingLength.Statement (.wand) := rfl

theorem EncodingLength.gie :
    EncodingLength.Statement (.gie) := rfl

theorem EncodingLength.nop :
    EncodingLength.Statement (.nop) := rfl

theorem EncodingLength.idle :
    EncodingLength.Statement (.idle) := rfl

theorem EncodingLength.bkpt :
    EncodingLength.Statement (.bkpt) := rfl

theorem EncodingLength.rti :
    EncodingLength.Statement (.rti) := rfl

theorem EncodingLength.sync :
    EncodingLength.Statement (.sync) := rfl

theorem EncodingLength.gid :
    EncodingLength.Statement (.gid) := rfl

theorem EncodingLength.mbkpt :
    EncodingLength.Statement (.mbkpt) := rfl

theorem EncodingLength.swi (num : BitVec 6) :
    EncodingLength.Statement (.swi num) := rfl

theorem EncodingLength.trap (trapnum : BitVec 6) :
    EncodingLength.Statement (.trap trapnum) := rfl

end Sys2Proof.Laws
end

