-- ==== Sys2Proof/Tests/Slice0.lean ====
section
/-! SUPPORT. Tests: what `check()` refuses, one word of every instruction decoded, single steps with the results of the
spec's vectors (95_test_vectors.md), and, for each statement with hypotheses, a case that meets them. -/

namespace Sys2Proof.Tests

open Sys2Proof.Machine

/-! ## Helpers -/

/-- The state after reset with `pc` 0x100, prepared by `f`, and an instruction where the next step fetches it. -/
def placed (nbits w : Nat) (f : State → State) : State := (f (State.reset.setPc 0x100)).withFetchWord nbits w

/-- Does one step of the instruction give a next state with a property? -/
def runs (nbits w : Nat) (f : State → State) (p : State → Bool) : Bool :=
  match step (placed nbits w f) with
  | .next t => p t
  | _ => false

/-- The other core of the grid of two. -/
def core1 : CoreId := { row := 0, col := 1 }

/-- A word of plain local memory of core (0, 0), of core (0, 1), and of external memory. -/
def mem4 (s : State) (off : Nat) (v : Word) : State :=
  s.modMe fun x => { x with mem := writeBytes x.mem off v .b4 }
def other4 (s : State) (off : Nat) (v : Word) : State :=
  s.setCore core1 { s.core core1 with mem := writeBytes (s.core core1).mem off v .b4 }
def ext4 (s : State) (off : Nat) (v : Word) : State := { s with ext := writeBytes s.ext off v .b4 }

/-- The word at an address as core (0, 0) reads it. -/
def read4 (s : State) (a : Word) : Option Word :=
  match memRead s s.self a .b4 with
  | .ok v => some v
  | _ => none

/-! ## What `check()` refuses (R140): an ill-formed term for each of K1, K2, K3 -/

theorem test_check_K1 :
    Instr.check (.float16 0 1 2) = false ∧ Instr.check (.fix32 0 1 2) = false ∧ Instr.check (.fabs16 0 1 2) = false ∧
    Instr.check (.fix32 0 2 2) = true := by
  decide

theorem test_check_K2 :
    Instr.check (.strDisp16 1 2 0 .double) = false ∧ Instr.check (.ldrPost32 63 2 0 .double true) = false ∧
    Instr.check (.ldrPost32 62 2 0 .double true) = true ∧ Instr.check (.strDisp16 1 2 0 .word) = true := by
  decide

theorem test_check_K3 :
    Instr.check (.movCond16 0 1 .link) = false ∧ Instr.check (.movCond32 0 1 .link) = false ∧
    Instr.check (.movCond16 0 1 .always) = true ∧ Instr.check (.bcond16 0 .link) = true := by
  decide

/-! ## Decoding: a word of each row, its fields placed by R124 to R127 and the row's match value of R135 -/

theorem test_decode_BR16 :
    decodeTableWord 16 0x9CB0 = some (.bcond16 0x9c .bne) := by
  decide

theorem test_decode_BR32 :
    decodeTableWord 32 0xA51C3EB8 = some (.bcond32 0xa51c3e .bne) := by
  decide

theorem test_decode_LSX16 :
    decodeTableWord 16 0xAB41 = some (.ldrIndex16 5 2 6 .word) ∧
    decodeTableWord 16 0xAB51 = some (.strIndex16 5 2 6 .word) := by
  decide

theorem test_decode_LSX32 :
    decodeTableWord 32 0xAB1078C9 = some (.ldrIndex32 43 22 49 .word true) ∧
    decodeTableWord 32 0xAB1078D9 = some (.strIndex32 43 22 49 .word true) ∧
    decodeTableWord 32 0xAB3078C9 = some (.testset 43 22 49 true) := by
  decide

theorem test_decode_LSP16 :
    decodeTableWord 16 0xAB45 = some (.ldrPost16 5 2 6 .word) ∧
    decodeTableWord 16 0xAB55 = some (.strPost16 5 2 6 .word) := by
  decide

theorem test_decode_LSP32 :
    decodeTableWord 32 0xAB1078CD = some (.ldrPost32 43 22 49 .word true) ∧
    decodeTableWord 32 0xAB1078DD = some (.strPost32 43 22 49 .word true) := by
  decide

theorem test_decode_LSD16 :
    decodeTableWord 16 0xAAC4 = some (.ldrDisp16 5 2 5 .word) ∧
    decodeTableWord 16 0xAAD4 = some (.strDisp16 5 2 5 .word) := by
  decide

theorem test_decode_LSD32 :
    decodeTableWord 32 0xA9A779CC = some (.ldrDisp32 43 22 0x53b .word true) ∧
    decodeTableWord 32 0xABA779CC = some (.ldrDispPost 43 22 0x53b .word true) ∧
    decodeTableWord 32 0xA9A779DC = some (.strDisp32 43 22 0x53b .word true) ∧
    decodeTableWord 32 0xABA779DC = some (.strDispPost 43 22 0x53b .word true) := by
  decide

theorem test_decode_MOVI16 :
    decodeTableWord 16 0xB6A3 = some (.movImm16 5 0xb5) := by
  decide

theorem test_decode_MOVI32 :
    decodeTableWord 32 0xAA52786B = some (.movImm32 43 0xa5c3) ∧
    decodeTableWord 32 0xBA52786B = some (.movt 43 0xa5c3) := by
  decide

theorem test_decode_IMM16 :
    decodeTableWord 16 0xAA93 = some (.addImm16 5 2 5) ∧
    decodeTableWord 16 0xAAB3 = some (.subImm16 5 2 5) := by
  decide

theorem test_decode_IMM32 :
    decodeTableWord 32 0xA8A7799B = some (.addImm32 43 22 0x53b) ∧
    decodeTableWord 32 0xA8A779BB = some (.subImm32 43 22 0x53b) := by
  decide

theorem test_decode_ALU16 :
    decodeTableWord 16 0xAB0A = some (.eor16 5 2 6) ∧
    decodeTableWord 16 0xAB1A = some (.add16 5 2 6) ∧
    decodeTableWord 16 0xAB2A = some (.lsl16 5 2 6) ∧
    decodeTableWord 16 0xAB3A = some (.sub16 5 2 6) ∧
    decodeTableWord 16 0xAB4A = some (.lsr16 5 2 6) ∧
    decodeTableWord 16 0xAB5A = some (.and16 5 2 6) ∧
    decodeTableWord 16 0xAB6A = some (.asr16 5 2 6) ∧
    decodeTableWord 16 0xAB7A = some (.orr16 5 2 6) := by
  decide

theorem test_decode_ALU32 :
    decodeTableWord 32 0xAB0A788F = some (.eor32 43 22 49) ∧
    decodeTableWord 32 0xAB0A789F = some (.add32 43 22 49) ∧
    decodeTableWord 32 0xAB0A78AF = some (.lsl32 43 22 49) ∧
    decodeTableWord 32 0xAB0A78BF = some (.sub32 43 22 49) ∧
    decodeTableWord 32 0xAB0A78CF = some (.lsr32 43 22 49) ∧
    decodeTableWord 32 0xAB0A78DF = some (.and32 43 22 49) ∧
    decodeTableWord 32 0xAB0A78EF = some (.asr32 43 22 49) ∧
    decodeTableWord 32 0xAB0A78FF = some (.orr32 43 22 49) := by
  decide

theorem test_decode_SHI16 :
    decodeTableWord 16 0xAAA6 = some (.lsrImm16 5 2 21) ∧
    decodeTableWord 16 0xAAB6 = some (.lslImm16 5 2 21) ∧
    decodeTableWord 16 0xAAAE = some (.asrImm16 5 2 21) ∧
    decodeTableWord 16 0xA81E = some (.bitr16 5 2) := by
  decide

theorem test_decode_SHI32 :
    decodeTableWord 32 0xA8067AAF = some (.lsrImm32 43 22 21) ∧
    decodeTableWord 32 0xA8067ABF = some (.lslImm32 43 22 21) ∧
    decodeTableWord 32 0xA80E7AAF = some (.asrImm32 43 22 21) ∧
    decodeTableWord 32 0xA80E781F = some (.bitr32 43 22) := by
  decide

theorem test_decode_FP16 :
    decodeTableWord 16 0xAB07 = some (.fadd16 5 2 6) ∧
    decodeTableWord 16 0xAB17 = some (.fsub16 5 2 6) ∧
    decodeTableWord 16 0xAB27 = some (.fmul16 5 2 6) ∧
    decodeTableWord 16 0xAB37 = some (.fmadd16 5 2 6) ∧
    decodeTableWord 16 0xAB47 = some (.fmsub16 5 2 6) ∧
    decodeTableWord 16 0xA957 = some (.float16 5 2 2) ∧
    decodeTableWord 16 0xA967 = some (.fix16 5 2 2) ∧
    decodeTableWord 16 0xA977 = some (.fabs16 5 2 2) := by
  decide

theorem test_decode_FP32 :
    decodeTableWord 32 0xAB07788F = some (.fadd32 43 22 49) ∧
    decodeTableWord 32 0xAB07789F = some (.fsub32 43 22 49) ∧
    decodeTableWord 32 0xAB0778AF = some (.fmul32 43 22 49) ∧
    decodeTableWord 32 0xAB0778BF = some (.fmadd32 43 22 49) ∧
    decodeTableWord 32 0xAB0778CF = some (.fmsub32 43 22 49) ∧
    decodeTableWord 32 0xA9077B5F = some (.float32 43 22 22) ∧
    decodeTableWord 32 0xA9077B6F = some (.fix32 43 22 22) ∧
    decodeTableWord 32 0xA9077B7F = some (.fabs32 43 22 22) := by
  decide

theorem test_decode_MOVC16 :
    decodeTableWord 16 0xA8B2 = some (.movCond16 5 2 .bne) := by
  decide

theorem test_decode_MOVC32 :
    decodeTableWord 32 0xA80278BF = some (.movCond32 43 22 .bne) := by
  decide

theorem test_decode_SYS16 :
    decodeTableWord 16 0xB902 = some (.movts16 5 6) ∧
    decodeTableWord 16 0xB912 = some (.movfs16 5 6) := by
  decide

theorem test_decode_SYS32 :
    decodeTableWord 32 0xB022750F = some (.movts32 43 37 2) ∧
    decodeTableWord 32 0xB022751F = some (.movfs32 43 37 2) := by
  decide

theorem test_decode_JMP16 :
    decodeTableWord 16 0x0942 = some (.jr16 2) ∧
    decodeTableWord 16 0x0952 = some (.jalr16 2) := by
  decide

theorem test_decode_JMP32 :
    decodeTableWord 32 0x0802194F = some (.jr32 22) ∧
    decodeTableWord 32 0x0802195F = some (.jalr32 22) := by
  decide

theorem test_decode_SPC16 :
    decodeTableWord 16 0x0182 = some (.wand) ∧
    decodeTableWord 16 0x0192 = some (.gie) ∧
    decodeTableWord 16 0x01A2 = some (.nop) ∧
    decodeTableWord 16 0x01B2 = some (.idle) ∧
    decodeTableWord 16 0x01C2 = some (.bkpt) ∧
    decodeTableWord 16 0x01D2 = some (.rti) ∧
    decodeTableWord 16 0x01F2 = some (.sync) ∧
    decodeTableWord 16 0x0392 = some (.gid) ∧
    decodeTableWord 16 0x03C2 = some (.mbkpt) ∧
    decodeTableWord 16 0xADE2 = some (.swi 43) ∧
    decodeTableWord 16 0xAFE2 = some (.trap 43) := by
  decide

/-! ## Single steps, from the vectors of 95_test_vectors.md (the number is the vector's) -/

/-- V-ALU-4. -/
theorem test_add_VALU4 :
    runs 16 0x409A (fun s => (s.setReg 0 0x80000000).setReg 1 0x80000000) (fun t =>
      t.reg 2 == 0 && t.flag bitAZ == true && t.flag bitAN == false && t.flag bitAC == true &&
      t.flag bitAV == true && t.flag bitAVS == true && t.pc == 258) = true := by
  decide

/-- V-ALU-11. -/
theorem test_add_VALU11 :
    runs 32 0xE48AE09F (fun s => (s.setReg 8 1).setReg 9 2) (fun t =>
      t.reg 63 == 3 && t.flag bitAZ == false && t.flag bitAN == false && t.flag bitAC == false &&
      t.flag bitAV == false && t.flag bitAVS == false && t.pc == 260) = true := by
  decide

/-- V-ALU-8. -/
theorem test_sub_VALU8 :
    runs 16 0x40BA (fun s => (s.setReg 0 0x80000000).setReg 1 1) (fun t =>
      t.reg 2 == 0x7fffffff && t.flag bitAZ == false && t.flag bitAN == false && t.flag bitAC == true &&
      t.flag bitAV == true && t.flag bitAVS == true && t.pc == 258) = true := by
  decide

/-- V-ALU-12. -/
theorem test_and_VALU12 :
    runs 16 0x055A (fun s => ((s.setReg 1 0xf0f0f0f0).setReg 2 0xff00ff0).setCtl .status 0x10c1) (fun t =>
      t.reg 0 == 0xf000f0 && t.flag bitAZ == false && t.flag bitAN == false && t.flag bitAC == false &&
      t.flag bitAV == false && t.flag bitAVS == true && t.pc == 258) = true := by
  decide

/-- V-ALU-13. -/
theorem test_orr_VALU13 :
    runs 16 0x057A (fun s => (s.setReg 1 0x80000000).setReg 2 1) (fun t =>
      t.reg 0 == 0x80000001 && t.flag bitAZ == false && t.flag bitAN == true && t.flag bitAC == false &&
      t.flag bitAV == false && t.flag bitAVS == false && t.pc == 258) = true := by
  decide

/-- V-ALU-14. -/
theorem test_eor_VALU14 :
    runs 16 0x000A (fun s => (s.setReg 0 0x1234).setReg 0 0x1234) (fun t =>
      t.reg 0 == 0 && t.flag bitAZ == true && t.flag bitAN == false && t.flag bitAC == false &&
      t.flag bitAV == false && t.flag bitAVS == false && t.pc == 258) = true := by
  decide

/-- V-ALU-16. -/
theorem test_lsl_VALU16 :
    runs 16 0x052A (fun s => (s.setReg 1 0xffffffff).setReg 2 32) (fun t =>
      t.reg 0 == 0xffffffff && t.flag bitAZ == false && t.flag bitAN == true && t.flag bitAC == false &&
      t.flag bitAV == false && t.flag bitAVS == false && t.pc == 258) = true := by
  decide

/-- V-ALU-17. -/
theorem test_lsr_VALU17 :
    runs 16 0x054A (fun s => (s.setReg 1 0x80000000).setReg 2 31) (fun t =>
      t.reg 0 == 1 && t.flag bitAZ == false && t.flag bitAN == false && t.flag bitAC == false &&
      t.flag bitAV == false && t.flag bitAVS == false && t.pc == 258) = true := by
  decide

/-- V-ALU-19. -/
theorem test_asr_VALU19 :
    runs 16 0x056A (fun s => (s.setReg 1 0x80000000).setReg 2 33) (fun t =>
      t.reg 0 == 0xc0000000 && t.flag bitAZ == false && t.flag bitAN == true && t.flag bitAC == false &&
      t.flag bitAV == false && t.flag bitAVS == false && t.pc == 258) = true := by
  decide

/-- V-ALU-21. -/
theorem test_add_VALU21 :
    runs 16 0x0393 (fun s => s.setReg 0 1) (fun t =>
      t.reg 0 == 0 && t.flag bitAZ == true && t.flag bitAN == false && t.flag bitAC == true &&
      t.flag bitAV == false && t.flag bitAVS == false && t.pc == 258) = true := by
  decide

/-- V-ALU-22. -/
theorem test_add_VALU22 :
    runs 32 0x0080281B (fun s => s.setReg 2 0x400) (fun t =>
      t.reg 1 == 0 && t.flag bitAZ == true && t.flag bitAN == false && t.flag bitAC == true &&
      t.flag bitAV == false && t.flag bitAVS == false && t.pc == 260) = true := by
  decide

/-- V-ALU-24. -/
theorem test_sub_VALU24 :
    runs 16 0x2633 (fun s => s.setReg 1 0x7ffffffc) (fun t =>
      t.reg 1 == 0x80000000 && t.flag bitAZ == false && t.flag bitAN == true && t.flag bitAC == false &&
      t.flag bitAV == true && t.flag bitAVS == true && t.pc == 258) = true := by
  decide

/-- V-ALU-25. -/
theorem test_sub_VALU25 :
    runs 32 0x007F73BB (fun s => s.setReg 4 1023) (fun t =>
      t.reg 3 == 0 && t.flag bitAZ == true && t.flag bitAN == false && t.flag bitAC == true &&
      t.flag bitAV == false && t.flag bitAVS == false && t.pc == 260) = true := by
  decide

/-- V-ALU-26. -/
theorem test_lsl_VALU26 :
    runs 16 0x0496 (fun s => s.setReg 1 0x12345678) (fun t =>
      t.reg 0 == 0x23456780 && t.flag bitAZ == false && t.flag bitAN == false && t.flag bitAC == false &&
      t.flag bitAV == false && t.flag bitAVS == false && t.pc == 258) = true := by
  decide

/-- V-ALU-27. -/
theorem test_lsr_VALU27 :
    runs 16 0x0486 (fun s => s.setReg 1 0x12345678) (fun t =>
      t.reg 0 == 0x1234567 && t.flag bitAZ == false && t.flag bitAN == false && t.flag bitAC == false &&
      t.flag bitAV == false && t.flag bitAVS == false && t.pc == 258) = true := by
  decide

/-- V-ALU-28. -/
theorem test_asr_VALU28 :
    runs 16 0x048E (fun s => s.setReg 1 0xf0000000) (fun t =>
      t.reg 0 == 0xff000000 && t.flag bitAZ == false && t.flag bitAN == true && t.flag bitAC == false &&
      t.flag bitAV == false && t.flag bitAVS == false && t.pc == 258) = true := by
  decide

/-- V-ALU-30. -/
theorem test_lsl_VALU30 :
    runs 32 0x24064FFF (fun s => s.setReg 11 3) (fun t =>
      t.reg 10 == 0x80000000 && t.flag bitAZ == false && t.flag bitAN == true && t.flag bitAC == false &&
      t.flag bitAV == false && t.flag bitAVS == false && t.pc == 260) = true := by
  decide

/-- V-ALU-31. -/
theorem test_bitr_VALU31 :
    runs 16 0x041E (fun s => s.setReg 1 0x12345678) (fun t =>
      t.reg 0 == 0x1e6a2c48 && t.flag bitAZ == false && t.flag bitAN == false && t.flag bitAC == false &&
      t.flag bitAV == false && t.flag bitAVS == false && t.pc == 258) = true := by
  decide

/-- V-MOV-1. -/
theorem test_mov_VMOV1 :
    runs 16 0x00A3 (fun s => s.setReg 0 0xffffffff) (fun t =>
      t.reg 0 == 5 && t.pc == 258) = true := by
  decide

/-- V-MOV-3. -/
theorem test_mov_VMOV3 :
    runs 32 0x2122068B (id) (fun t =>
      t.reg 8 == 0x1234 && t.pc == 260) = true := by
  decide

/-- V-MOV-5. -/
theorem test_movt_VMOV5 :
    runs 32 0x18E2000B (fun s => s.setReg 0 0x1234) (fun t =>
      t.reg 0 == 0x8e001234 && t.pc == 260) = true := by
  decide

/-- V-MOV-6. -/
theorem test_moveq_VMOV6 :
    runs 16 0x0402 (fun s => ((s.setReg 0 1).setReg 1 9).setCtl .status 17) (fun t =>
      t.reg 0 == 9 && t.pc == 258) = true := by
  decide

/-- V-MOV-7. -/
theorem test_moveq_VMOV7 :
    runs 16 0x0402 (fun s => (s.setReg 0 1).setReg 1 9) (fun t =>
      t.reg 0 == 1 && t.pc == 258) = true := by
  decide

/-- V-MOV-11. -/
theorem test_movfs_VMOV11 :
    runs 16 0x0512 (fun s => s.setCtl .status 0x31231) (fun t =>
      t.reg 0 == 0x31231 && t.pc == 258) = true := by
  decide

/-- V-MOV-13. -/
theorem test_movts_VMOV13 :
    runs 16 0x0502 (fun s => (s.setReg 0 0xfffffff8).setCtl .status 3) (fun t =>
      t.ctl .status == 0xfffffffb && t.pc == 258) = true := by
  decide

/-- V-MOV-16. -/
theorem test_movts_VMOV16 :
    runs 32 0x04022D0F (fun s => ((s.setReg 1 260).setCtl .ilat 2).setCtl .status 3) (fun t =>
      t.ctl .ilat == 262 && t.ctl .ilatSt == 260 && t.pc == 260) = true := by
  decide

/-- V-MOV-20. -/
theorem test_movts_VMOV20 :
    runs 32 0x00322D0F (fun s => ((s.setReg 1 0).setReg 5 85).setCtl .imask 255) (fun t =>
      t.reg 5 == 0 && t.ctl .imask == 0 && t.ctl .status == 0 && t.pc == 4) = true := by
  decide

/-- V-MOV-22. -/
theorem test_movfs_VMOV22 :
    runs 32 0x0032451F (fun s => s.setCtl .coreId 0x808) (fun t =>
      t.reg 2 == 0x808 && t.pc == 260) = true := by
  decide

/-- V-LS-1. -/
theorem test_ldrb_VLS1 :
    runs 16 0x0501 (fun s => (((mem4 s 0x2000 0x80c3b2a1).setReg 0 0xffffffff).setReg 1 0x2000).setReg 2 3) (fun t =>
      t.reg 0 == 128 && t.pc == 258) = true := by
  decide

/-- V-LS-2. -/
theorem test_ldrh_VLS2 :
    runs 16 0x65A4 (fun s => (mem4 s 0x2004 0xbeef1234).setReg 1 0x2000) (fun t =>
      t.reg 3 == 0xbeef && t.pc == 258) = true := by
  decide

/-- V-LS-3. -/
theorem test_ldr_VLS3 :
    runs 32 0x010004CC (fun s => (mem4 s 0x2000 0xcafebabe).setReg 1 0x2004) (fun t =>
      t.reg 0 == 0xcafebabe && t.pc == 260) = true := by
  decide

/-- V-LS-4. -/
theorem test_ldrd_VLS4 :
    runs 16 0x44E4 (fun s => (mem4 (mem4 s 0x2008 0x11111111) 0x200c 0x22222222).setReg 1 0x2000) (fun t =>
      t.reg 2 == 0x11111111 && t.reg 3 == 0x22222222 && t.pc == 258) = true := by
  decide

/-- V-LS-5. -/
theorem test_ldr_VLS5 :
    runs 16 0x0545 (fun s => ((mem4 s 0x2000 0xa5a5a5a5).setReg 1 0x2000).setReg 2 8) (fun t =>
      t.reg 0 == 0xa5a5a5a5 && t.reg 1 == 0x2008 && t.pc == 258) = true := by
  decide

/-- V-LS-6. -/
theorem test_ldrd_VLS6 :
    runs 32 0x020044EC (fun s => (mem4 (mem4 s 0x2000 1) 0x2004 2).setReg 1 0x2000) (fun t =>
      t.reg 2 == 1 && t.reg 3 == 2 && t.reg 1 == 0x2008 && t.pc == 260) = true := by
  decide

/-- V-LS-7. -/
theorem test_strh_VLS7 :
    runs 16 0x0531 (fun s => (((mem4 s 0x2000 0xffffffff).setReg 0 0x12345678).setReg 1 0x2000).setReg 2 2) (fun t =>
      read4 t 0x2000 == some 0x5678ffff && t.pc == 258) = true := by
  decide

/-- V-LS-8. -/
theorem test_strd_VLS8 :
    runs 16 0x44F4 (fun s => ((s.setReg 2 0xaaaa0001).setReg 3 0xbbbb0002).setReg 1 0x2000) (fun t =>
      read4 t 0x2008 == some 0xaaaa0001 && read4 t 0x200C == some 0xbbbb0002 && t.pc == 258) = true := by
  decide

/-- V-LS-9. -/
theorem test_str_VLS9 :
    runs 32 0x0010255D (fun s => (s.setReg 1 0x2000).setReg 2 4) (fun t =>
      read4 t 0x2000 == some 0x2000 && t.reg 1 == 0x1ffc && t.pc == 260) = true := by
  decide

/-- V-LS-10. -/
theorem test_str_VLS10 :
    runs 16 0x0454 (fun s => ((mem4 (mem4 s 0x2000 0x11111111) 0x2004 0x22222222).setReg 0 0xdeadbeef).setReg 1 0x2002)
      (fun t =>
      read4 t 0x2000 == some 0x11111111 && read4 t 0x2004 == some 0x22222222 && t.ctl .ilat == 2 &&
      t.ctl .status == 0x20001 && t.pc == 258) = true := by
  decide

/-- V-LS-22. -/
theorem test_ldr_VLS22 :
    runs 32 0x0000044C (fun s => (ext4 s 0x10 0xbadf00d).setReg 1 0x8e000010) (fun t =>
      t.reg 0 == 0xbadf00d && t.pc == 260) = true := by
  decide

/-- V-BR-2. -/
theorem test_bne_VBR2 :
    runs 16 0xFE10 (fun s => (s.setCtl .status 1).setReg 14 0xeeeeeeee) (fun t =>
      t.reg 14 == 0xeeeeeeee && t.pc == 252) = true := by
  decide

/-- V-BR-4. -/
theorem test_beq_VBR4 :
    runs 32 0x00080008 (fun s => (s.setCtl .status 17).setReg 14 0xeeeeeeee) (fun t =>
      t.reg 14 == 0xeeeeeeee && t.pc == 0x1100) = true := by
  decide

/-- V-BR-5. -/
theorem test_bl_VBR5 :
    runs 32 0x000080F8 (fun s => ((s.setPc 0x200).setCtl .status 1).setReg 14 0xeeeeeeee) (fun t =>
      t.reg 14 == 516 && t.pc == 768) = true := by
  decide

/-- V-BR-7. -/
theorem test_bgtu_VBR7 :
    runs 16 0x0420 (fun s => (s.setCtl .status 65).setReg 14 0xeeeeeeee) (fun t =>
      t.reg 14 == 0xeeeeeeee && t.pc == 264) = true := by
  decide

/-- V-BR-14. -/
theorem test_jr_VBR14 :
    runs 16 0x0542 (fun s => s.setReg 1 0x400) (fun t =>
      t.pc == 0x400) = true := by
  decide

/-- V-BR-15. -/
theorem test_jr_VBR15 :
    runs 32 0x0402194F (fun s => s.setReg 14 516) (fun t =>
      t.pc == 516) = true := by
  decide

/-- V-BR-16. -/
theorem test_jalr_VBR16 :
    runs 16 0x0552 (fun s => s.setReg 1 0x400) (fun t =>
      t.reg 14 == 258 && t.pc == 0x400) = true := by
  decide

/-- V-BR-17. -/
theorem test_jalr_VBR17 :
    runs 32 0x0402195F (fun s => s.setReg 14 0x400) (fun t =>
      t.reg 14 == 260 && t.pc == 0x400) = true := by
  decide

/-- V-FP-3. -/
theorem test_fadd_VFP3 :
    runs 16 0x4087 (fun s => (s.setReg 0 0x7fc00000).setReg 1 0xbf800000) (fun t =>
      t.reg 2 == 0xffc00000 && t.flag bitBZ == false && t.flag bitBN == true && t.flag bitBV == false &&
      t.flag bitBIS == true && t.flag bitBVS == false && t.flag bitBUS == false && t.pc == 258) = true := by
  decide

/-- V-FP-8. -/
theorem test_fadd_VFP8 :
    runs 16 0x4087 (fun s => (s.setReg 0 0x3f800001).setReg 1 0x33800000) (fun t =>
      t.reg 2 == 0x3f800002 && t.flag bitBZ == false && t.flag bitBN == false && t.flag bitBV == false &&
      t.flag bitBIS == false && t.flag bitBVS == false && t.flag bitBUS == false && t.pc == 258) = true := by
  decide

/-- V-FP-13. -/
theorem test_fsub_VFP13 :
    runs 16 0x4097 (fun s => (s.setReg 0 0x800000).setReg 1 0x800001) (fun t =>
      t.reg 2 == 0x80000000 && t.flag bitBZ == true && t.flag bitBN == true && t.flag bitBV == false &&
      t.flag bitBIS == false && t.flag bitBVS == false && t.flag bitBUS == true && t.pc == 258) = true := by
  decide

/-- V-FP-14. -/
theorem test_fsub_VFP14 :
    runs 16 0x4097 (fun s => (s.setReg 0 0x7f800000).setReg 1 0x7f800000) (fun t =>
      t.reg 2 == 0x7fc00000 && t.flag bitBZ == false && t.flag bitBN == false && t.flag bitBV == false &&
      t.flag bitBIS == true && t.flag bitBVS == false && t.flag bitBUS == false && t.pc == 258) = true := by
  decide

/-- V-FP-16. -/
theorem test_fmul_VFP16 :
    runs 16 0x40A7 (fun s => (s.setReg 0 0x800000).setReg 1 0x3f000000) (fun t =>
      t.reg 2 == 0 && t.flag bitBZ == true && t.flag bitBN == false && t.flag bitBV == false &&
      t.flag bitBIS == false && t.flag bitBVS == false && t.flag bitBUS == true && t.pc == 258) = true := by
  decide

set_option maxRecDepth 1000 in
/-- V-FP-19. -/
theorem test_fmul_VFP19 :
    runs 16 0x40A7 (fun s => ((s.setReg 0 0x7f000000).setReg 1 0x40800000).setCtl .config 4) (fun t =>
      t.reg 2 == 0x7f800000 && t.ctl .ilat == 2 && t.flag bitBZ == false && t.flag bitBN == false &&
      t.flag bitBV == true && t.flag bitBIS == false && t.flag bitBVS == true && t.flag bitBUS == false &&
      t.pc == 258 && (t.ctl .status >>> 16) &&& 0xF == 3) = true := by
  decide

/-- V-FP-21. -/
theorem test_fmadd_VFP21 :
    runs 16 0x40B7 (fun s => ((s.setReg 0 0x40000000).setReg 1 0x40400000).setReg 2 0x3f800000) (fun t =>
      t.reg 2 == 0x40e00000 && t.flag bitBZ == false && t.flag bitBN == false && t.flag bitBV == false &&
      t.flag bitBIS == false && t.flag bitBVS == false && t.flag bitBUS == false && t.pc == 258) = true := by
  decide

/-- V-FP-22. -/
theorem test_fmadd_VFP22 :
    runs 16 0x40B7 (fun s => ((s.setReg 0 0x3f800001).setReg 1 0x3f800001).setReg 2 0xbf800002) (fun t =>
      t.reg 2 == 0x28800000 && t.flag bitBZ == false && t.flag bitBN == false && t.flag bitBV == false &&
      t.flag bitBIS == false && t.flag bitBVS == false && t.flag bitBUS == false && t.pc == 258) = true := by
  decide

/-- V-FP-23. -/
theorem test_fmsub_VFP23 :
    runs 16 0x40C7 (fun s => ((s.setReg 0 0x40000000).setReg 1 0x40400000).setReg 2 0x40e00000) (fun t =>
      t.reg 2 == 0x3f800000 && t.flag bitBZ == false && t.flag bitBN == false && t.flag bitBV == false &&
      t.flag bitBIS == false && t.flag bitBVS == false && t.flag bitBUS == false && t.pc == 258) = true := by
  decide

/-- V-FP-33. -/
theorem test_float_VFP33 :
    runs 16 0x04D7 (fun s => (s.setReg 1 0x7fffffff).setCtl .config 1) (fun t =>
      t.reg 0 == 0x4effffff && t.flag bitBZ == false && t.flag bitBN == false && t.flag bitBV == false &&
      t.flag bitBIS == false && t.flag bitBVS == false && t.flag bitBUS == false && t.pc == 258) = true := by
  decide

/-- V-FP-35. -/
theorem test_float_VFP35 :
    runs 16 0x04D7 (fun s => s.setReg 1 0x1000001) (fun t =>
      t.reg 0 == 0x4b800000 && t.flag bitBZ == false && t.flag bitBN == false && t.flag bitBV == false &&
      t.flag bitBIS == false && t.flag bitBVS == false && t.flag bitBUS == false && t.pc == 258) = true := by
  decide

/-- V-FP-43. -/
theorem test_fix_VFP43 :
    runs 16 0x04E7 (fun s => s.setReg 1 0xbfc00000) (fun t =>
      t.reg 0 == 0xfffffffe && t.flag bitBZ == false && t.flag bitBN == true && t.flag bitBV == false &&
      t.flag bitBIS == false && t.flag bitBVS == false && t.flag bitBUS == false && t.pc == 258) = true := by
  decide

/-- V-FP-48. -/
theorem test_fix_VFP48 :
    runs 16 0x04E7 (fun s => s.setReg 1 0x4f000000) (fun t =>
      t.reg 0 == 0x7fffffff && t.flag bitBZ == false && t.flag bitBN == false && t.flag bitBV == false &&
      t.flag bitBIS == true && t.flag bitBVS == false && t.flag bitBUS == false && t.pc == 258) = true := by
  decide

/-- V-FP-61. -/
theorem test_fabs_VFP61 :
    runs 16 0x04F7 (fun s => s.setReg 1 0x80000001) (fun t =>
      t.reg 0 == 0 && t.flag bitBZ == true && t.flag bitBN == false && t.flag bitBV == false &&
      t.flag bitBIS == false && t.flag bitBVS == false && t.flag bitBUS == false && t.pc == 258) = true := by
  decide

/-- V-FP-62. -/
theorem test_fabs_VFP62 :
    runs 16 0x04F7 (fun s => s.setReg 1 0xffc00001) (fun t =>
      t.reg 0 == 0x7fc00001 && t.flag bitBZ == false && t.flag bitBN == false && t.flag bitBV == false &&
      t.flag bitBIS == false && t.flag bitBVS == false && t.flag bitBUS == false && t.pc == 258) = true := by
  decide

/-- V-SYS-1. -/
theorem test_nop_VSYS1 :
    runs 16 0x01A2 (fun s => s.setCtl .status 0x312f1) (fun t =>
      t.ctl .status == 0x312f1 && t.pc == 258) = true := by
  decide

/-- V-SYS-2. -/
theorem test_idle_VSYS2 :
    runs 16 0x01B2 (id) (fun t =>
      t.ctl .status == 1 && t.pc == 258 && t.me.idle == true) = true := by
  decide

/-- V-SYS-3. -/
theorem test_bkpt_VSYS3 :
    runs 16 0x01C2 (id) (fun t =>
      t.ctl .debugStatus == 1 && t.ctl .status == 1 && t.pc == 258) = true := by
  decide

/-- V-SYS-5. -/
theorem test_gie_VSYS5 :
    runs 16 0x0192 (fun s => s.setCtl .status 3) (fun t =>
      t.ctl .status == 1 && t.pc == 258) = true := by
  decide

/-- V-SYS-6. -/
theorem test_gid_VSYS6 :
    runs 16 0x0392 (id) (fun t =>
      t.ctl .status == 3 && t.pc == 258) = true := by
  decide

/-- V-SYS-10. -/
theorem test_rti_VSYS10 :
    runs 16 0x01D2 (fun s => ((s.setCtl .status 3).setCtl .ipend 258).setCtl .iret 768) (fun t =>
      t.ctl .status == 1 && t.ctl .ipend == 256 && t.pc == 768) = true := by
  decide

/-- V-SYS-11. -/
theorem test_rti_VSYS11 :
    runs 16 0x01D2 (fun s => ((s.setCtl .status 7).setCtl .ipend 0).setCtl .iret 68) (fun t =>
      t.ctl .status == 5 && t.ctl .ipend == 0 && t.pc == 68) = true := by
  decide

/-- V-SYS-17. -/
theorem test_swi_VSYS17 :
    runs 16 0x01E2 (id) (fun t =>
      t.ctl .ilat == 256 && t.ctl .status == 0x10001 && t.pc == 258) = true := by
  decide

/-- V-MOV-10: a conditional move in its 32-bit form. -/
theorem test_movlt_VMOV10 :
    runs 32 0x5402808F (fun s => (s.setReg 40 0x77).setCtl .status 0x21) (fun t =>
      t.reg 20 == 0x77 && t.pc == 260) = true := by
  decide

/-- V-MOV-23: the literal reading of a MOVTS to PC. -/
theorem test_movts_VMOV23 : runs 16 0x2902 (fun s => s.setReg 1 0x400) (fun t => t.pc == 0x402) = true := by
  decide

/-- V-LS-13: a store to another core's FSTATUS starts it. -/
theorem test_str_VLS13 :
    runs 16 0x0454 (fun s => (s.setReg 0 1).setReg 1 0x1F0440) (fun t =>
      (t.core core1).ctl .status == 1 && t.pc == 258) = true := by
  decide

/-- V-LS-14 and V-LS-15. -/
theorem test_testset_VLS14 :
    runs 32 0x00200549 (fun s => (s.setReg 0 1).setReg 1 0x102000) (fun t =>
      t.reg 0 == 0 && read4 t 0x102000 == some 1 && t.pc == 260) = true := by
  decide

theorem test_testset_VLS15 :
    runs 32 0x00200549 (fun s => ((other4 s 0x2000 5).setReg 0 1).setReg 1 0x102000) (fun t =>
      t.reg 0 == 5 && read4 t 0x102000 == some 5 && t.pc == 260) = true := by
  decide

/-- V-SYS-4, V-SYS-7, V-SYS-9: the instructions that act on every core. -/
theorem test_mbkpt_VSYS4 :
    runs 16 0x03C2 id (fun t =>
      t.ctl .debugStatus == 1 && (t.core core1).ctl .debugStatus == 1 && t.pc == 258) = true := by
  decide

theorem test_sync_VSYS7 :
    runs 16 0x01F2 (fun s => (s.setCtl .status 3).setCtl .ilat 0x100) (fun t =>
      t.ctl .ilat == 0x101 && (t.core core1).ctl .ilat == 1) = true := by
  decide

theorem test_wand_VSYS9 :
    runs 16 0x0182 (fun s => s.setCore core1 ((s.core core1).setCtl .status 8)) (fun t =>
      t.ctl .status == 9 && t.ctl .ilat == 0x80 && (t.core core1).ctl .ilat == 0x80) = true := by
  decide

/-- V-SYS-12 and V-SYS-14. -/
theorem test_trap_VSYS12 :
    runs 16 0x0FE2 (fun s => s.setReg 0 5) (fun t =>
      t.me.exitCode == 5 && t.me.passed == false && t.ctl .status == 0 && t.pc == 258) = true := by
  decide

theorem test_trap_VSYS14 :
    runs 16 0x17E2 (fun s => s.setReg 0 5) (fun t =>
      t.me.exitCode == 0 && t.me.failed == true && t.ctl .status == 0 && t.pc == 258) = true := by
  decide

/-! ## Reset -/

theorem test_reset_memory : Memory.wf State.reset.ext = true ∧ (∀ p ∈ State.reset.cores, Memory.wf p.2.mem = true) := by
  decide

/-! ## Cases that meet the hypotheses of the statements, by the statement's name -/

theorem quiet_of_ilat {x : ECore} (h : x.ctl .ilat = 0) : Quiet x :=
  .inr fun i hi => by
    have h2 := hi.2.1
    rw [h] at h2
    simp at h2

/-- A running core about to fetch a NOP, an ADD of 32 bits, and an IDLE. -/
def nopState : State := placed 16 0x01A2 id
def addState : State := placed 32 0xE48AE09F id
def idleState : State := placed 16 0x01B2 id

theorem running_nop : Running nopState :=
  ⟨rfl, rfl, quiet_of_ilat (by decide), by decide, by decide, by decide, by decide⟩

theorem running_add : Running addState :=
  ⟨rfl, rfl, quiet_of_ilat (by decide), by decide, by decide, by decide, by decide⟩

/-- Extension decoders for two undefined words, one with a failed check, and for the word of NOP, and a core that is
about to fetch the first. -/
def extRows : ExtDecoder 16 :=
  [⟨0xFFFF, 0x03F2, 7, true⟩, ⟨0xFFFF, 0x07F2, 8, false⟩, ⟨0xFFFF, 0x01A2, 9, true⟩]
def extState : State := (placed 16 0x03F2 id).registerExt16 extRows
def extOk : ExtInstr := { op := 7, word := 0x03F2, width := 2, valid := true }

theorem running_ext : Running extState :=
  ⟨rfl, rfl, quiet_of_ilat (by decide), by decide, by decide, by decide, by decide⟩

/-- The order of the decoders (R145): the fixed table, then the one registered first; and with none, no match. -/
theorem test_ext_decode :
    decode16 extState.cfg.decode 0x01A2 = some (.table .nop) ∧
    decode16 (extState.registerExt16 [⟨0, 0, 1, true⟩]).cfg.decode 0x03F2 = some (.ext extOk) ∧
    decode16 ((extState.registerExt16 [⟨0, 0, 1, true⟩]).removeExt16 0).cfg.decode 0x03F2 =
      some (.ext { extOk with op := 1 }) ∧
    decode16 extState.clearExt.cfg.decode 0x03F2 = none := by
  decide

/-- An extension instruction with a failed check halts the core (R335), and one whose execute writes R1 and memory and
returns `Idle` does so. -/
theorem test_ext_step :
    (match step ((placed 16 0x07F2 id).registerExt16 extRows) with
      | .next t => t.me.notes == [.invalidEncoding] && t.flag bitActive == false
      | _ => false) = true ∧
    (match runExt extOk ⟨[.setWord 1 7, .write 0x2000 .b4 5], .idle⟩ extState with
      | .next t => t.reg 1 == 7 && read4 t 0x2000 == some 5 && t.me.idle && t.pc == 0x102
      | _ => false) = true := by
  decide

/-- TableRowsDecodeAlone: an extension decoder in reach of each length. -/
theorem case_TableRowsDecodeAlone :
    (∃ e, decode16 (ruleDecode.register16 extRows) 0x03F2 = some (.ext e)) ∧
    ∃ e, decode32 (ruleDecode.register32 [⟨0xFFFFFFFF, 0x000F000F, 1, true⟩]) 0x000F000F = some (.ext e) :=
  ⟨⟨_, rfl⟩, _, rfl⟩

theorem case_DecodeOfEncode :
    (Instr.add32 63 8 9).width = 4 ∧ ruleDecode.table16 = table16 ∧ ruleDecode.table32 = table32 ∧
    ruleDecode.ext16 = [] := ⟨rfl, rfl, rfl, rfl⟩

/-- UndefinedWordsMatchNothing: a word of each of the ten regions. -/
theorem case_UndefinedWordsMatchNothing :
    (0x000F#16).extractLsb' 0 4 = 0b1111#4 ∧ (0x00000000#32).extractLsb' 0 4 = 0b0000#4 ∧
    ((0x0053#16).extractLsb' 0 4 = 0b0011#4 ∧ (0x0053#16).getLsbD 4 = true ∧ (0x0053#16).getLsbD 6 = true) ∧
    ((0x03F2#16).extractLsb' 0 4 = 0b0010#4 ∧ (0x03F2#16).extractLsb' 8 2 ≠ 0b00#2 ∧ (0x03F2#16).extractLsb' 4 6 = 0b111111#6) ∧
    ((0x00400009#32).extractLsb' 0 4 = 0b1001#4 ∧ (0x00400009#32).getLsbD 22 = true) ∧
    ((0x00200009#32).extractLsb' 0 4 = 0b1001#4 ∧ (0x00200009#32).extractLsb' 21 2 = 0b01#2 ∧
      (0x00200009#32).extractLsb' 4 3 ≠ 0b100#3) ∧
    ((0x0000000B#32).extractLsb' 0 4 = 0b1011#4 ∧ (0x0000000B#32).getLsbD 4 = false ∧
      (0x0000000B#32).extractLsb' 16 4 ≠ 0b0010#4) ∧
    ((0x0000005B#32).extractLsb' 0 4 = 0b1011#4 ∧ (0x0000005B#32).getLsbD 4 = true ∧
      (0x0000005B#32).getLsbD 6 = true) ∧
    ((0x0000000F#32).extractLsb' 0 4 = 0b1111#4 ∧ (0x0000000F#32).extractLsb' 16 4 = 0b0000#4) ∧
    ((0x0002030F#32).extractLsb' 0 4 = 0b1111#4 ∧ (0x0002030F#32).extractLsb' 16 4 = 0b0010#4 ∧
      (0x0002030F#32).extractLsb' 8 2 ≠ 0b00#2 ∧ (0x0002030F#32).extractLsb' 4 6 = 0b110000#6) := by
  decide

/-- DontCareBitsAreIgnored: two words of each kind of row that differ in every don't-care bit. -/
theorem case_DontCareBitsAreIgnored :
    (0x041E#16 &&& 0x001F#16 = 0x001E#16 ∧ (0x041E#16 ^^^ 0x07FE#16) &&& ~~~0x03E0#16 = 0) ∧
    (0x0542#16 &&& 0x03EF#16 = 0x0142#16 ∧ (0x0542#16 ^^^ 0xE542#16) &&& ~~~0xE000#16 = 0) ∧
    (0x01A2#16 &&& 0x03FF#16 = 0x01A2#16 ∧ (0x01A2#16 ^^^ 0xFDA2#16) &&& ~~~0xFC00#16 = 0) ∧
    (0x00000009#32 &&& 0x0000000F#32 = 0x00000009#32 ∧ (0x00000009#32 ^^^ 0x000F0009#32) &&& ~~~0x000F0000#32 = 0) ∧
    (0x0000000D#32 &&& 0x0000000F#32 = 0x0000000D#32 ∧ (0x0000000D#32 ^^^ 0x006F000D#32) &&& ~~~0x006F0000#32 = 0) ∧
    (0x0000001B#32 &&& 0x0000001F#32 = 0x0000001B#32 ∧ (0x0000001B#32 ^^^ 0x0300001B#32) &&& ~~~0x03000000#32 = 0) ∧
    (0x0007000F#32 &&& 0x000F000F#32 = 0x0007000F#32 ∧ (0x0007000F#32 ^^^ 0x0077000F#32) &&& ~~~0x00700000#32 = 0) ∧
    (0x0006000F#32 &&& 0x000F000F#32 = 0x0006000F#32 ∧ (0x0006000F#32 ^^^ 0x03F6000F#32) &&& ~~~0x03F00000#32 = 0) ∧
    (0x000E001F#32 &&& 0x000F001F#32 = 0x000E001F#32 ∧ (0x000E001F#32 ^^^ 0x03FE03FF#32) &&& ~~~0x03F003E0#32 = 0) ∧
    (0x0002000F#32 &&& 0x000F030F#32 = 0x0002000F#32 ∧ (0x0002000F#32 ^^^ 0x03F2000F#32) &&& ~~~0x03F00000#32 = 0) ∧
    (0x0002010F#32 &&& 0x000F03EF#32 = 0x0002010F#32 ∧ (0x0002010F#32 ^^^ 0x03C2010F#32) &&& ~~~0x03C00000#32 = 0) ∧
    (0x0002014F#32 &&& 0x000F03EF#32 = 0x0002014F#32 ∧ (0x0002014F#32 ^^^ 0xE3F2E14F#32) &&& ~~~0xE3F0E000#32 = 0) := by
  decide

theorem case_StepRunsTheDecoded :
    (Running nopState ∧ Instr.nop.WellFormed ∧ HalfAt nopState nopState.pc 0x01A2 ∧ decode16 nopState.cfg.decode 0x01A2 = some (.table .nop)) ∧
    (Running addState ∧ (Instr.add32 63 8 9).WellFormed ∧ HalfAt addState addState.pc 0xE09F ∧
      decode16 addState.cfg.decode 0xE09F = none ∧ HalfAt addState (addState.pc + 2) 0xE48A ∧
      decode32 addState.cfg.decode (joinHalves 0xE09F 0xE48A) = some (.table (.add32 63 8 9))) ∧
    (Running extState ∧ HalfAt extState extState.pc 0x03F2 ∧
      decode16 extState.cfg.decode 0x03F2 = some (.ext extOk) ∧ extOk.valid = true) ∧
    ∃ u, extActs [.setWord 1 7, .write 0x2000 .b4 5, .read 0x2000 .b4, .trigger core1 0 none] extState = .ok u :=
  ⟨⟨running_nop, rfl, ⟨_, rfl, by decide⟩, by decide⟩,
    ⟨running_add, rfl, ⟨_, rfl, by decide⟩, by decide, ⟨_, rfl, by decide⟩, by decide⟩,
    ⟨running_ext, ⟨_, rfl, by decide⟩, by decide, rfl⟩, _, rfl⟩

theorem case_StepRunsTheEncoded :
    (nopState.cfg.decode = ruleDecode ∧ addState.cfg.decode = ruleDecode ∧
      (Target.core { row := 0, col := 0 } 0x102).plain addState.cfg.window = true) ∧
    (Running nopState ∧ Instr.nop.WellFormed ∧ configOk nopState.cfg = true ∧
      translate nopState.cfg nopState.self nopState.pc = .core { row := 0, col := 0 } 0x100 ∧
      ∀ j, (h : j < Instr.nop.bytes.length) →
        nopState.byteOf (.core { row := 0, col := 0 } (0x100 + j)) = Instr.nop.bytes[j]) ∧
    (Running addState ∧ (Instr.add32 63 8 9).WellFormed ∧ configOk addState.cfg = true ∧
      translate addState.cfg addState.self addState.pc = .core { row := 0, col := 0 } 0x100 ∧
      translate addState.cfg addState.self (addState.pc + 2) = .core { row := 0, col := 0 } 0x102 ∧
      ∀ j, (h : j < (Instr.add32 63 8 9).bytes.length) →
        addState.byteOf (.core { row := 0, col := 0 } (0x100 + j)) = (Instr.add32 63 8 9).bytes[j]) :=
  ⟨⟨rfl, rfl, by decide⟩, ⟨running_nop, rfl, by decide, by decide, by decide⟩,
    running_add, rfl, by decide, by decide, by decide, by decide⟩

/-- The state of a core whose `pc` is the last halfword before the first reserved range, in R63. -/
def edgeState : State := (nopState.setReg 63 0x000F0000).setPc 0xF00FE

theorem case_FaultsBeforeExecuteHalt :
    (Quiet (nopState.setPc 0x101).me ∧ (nopState.setPc 0x101).pc.getLsbD 0 = true ∧
      (nopState.setPc 0x101).flag bitActive = true) ∧
    (Running (nopState.setPc 0x04000000) ∧
      translate (nopState.setPc 0x04000000).cfg (nopState.setPc 0x04000000).self 0x04000000 = .invalid) ∧
    (Running edgeState ∧ HalfAt edgeState edgeState.pc 0x000F ∧ decode16 edgeState.cfg.decode 0x000F = none ∧
      translate edgeState.cfg edgeState.self (edgeState.pc + 2) = .invalid) ∧
    (Running (placed 32 0x0000000F id) ∧ HalfAt (placed 32 0x0000000F id) 0x100 0x000F ∧
      HalfAt (placed 32 0x0000000F id) 0x102 0x0000 ∧ decode16 ruleDecode 0x000F = none ∧
      decode32 ruleDecode (joinHalves 0x000F 0x0000) = none) ∧
    (Running (placed 16 0x0567 id) ∧ HalfAt (placed 16 0x0567 id) 0x100 0x0567 ∧
      decode16 ruleDecode 0x0567 = some (.table (.fix16 0 1 2)) ∧ (Instr.fix16 0 1 2).check = false) ∧
    (Running (placed 32 0x000700DF id) ∧ HalfAt (placed 32 0x000700DF id) 0x100 0x00DF ∧
      decode16 ruleDecode 0x00DF = none ∧
      HalfAt (placed 32 0x000700DF id) 0x102 0x0007 ∧
      decode32 ruleDecode (joinHalves 0x00DF 0x0007) = some (.table (.float32 0 0 1)) ∧
      (Instr.float32 0 0 1).check = false) ∧
    decode16 extState.cfg.decode 0x07F2 = some (.ext { op := 8, word := 0x07F2, width := 2, valid := false }) := by
  refine ⟨⟨quiet_of_ilat (by decide), by decide, by decide⟩, ⟨⟨rfl, rfl, quiet_of_ilat (by decide), ?_, ?_, ?_, ?_⟩, ?_⟩,
    ⟨⟨rfl, rfl, quiet_of_ilat (by decide), ?_, ?_, ?_, ?_⟩, ⟨_, rfl, by decide⟩, ?_, ?_⟩,
    ⟨⟨rfl, rfl, quiet_of_ilat (by decide), ?_, ?_, ?_, ?_⟩, ⟨_, rfl, by decide⟩, ⟨_, rfl, by decide⟩, ?_, ?_⟩,
    ⟨⟨rfl, rfl, quiet_of_ilat (by decide), ?_, ?_, ?_, ?_⟩, ⟨_, rfl, by decide⟩, ?_, ?_⟩,
    ⟨⟨rfl, rfl, quiet_of_ilat (by decide), ?_, ?_, ?_, ?_⟩, ⟨_, rfl, by decide⟩, ?_, ⟨_, rfl, by decide⟩, ?_, ?_⟩, ?_⟩ <;>
  decide

theorem case_SleepingTicks :
    (Quiet (nopState.modMe fun c => { c with idle := true }).me ∧
      (nopState.modMe fun c => { c with idle := true }).me.idle = true) ∧
    (Quiet (nopState.setCtl .debugStatus 1).me ∧ (nopState.setCtl .debugStatus 1).me.idle = false ∧
      ((nopState.setCtl .debugStatus 1).ctl .debugStatus).getLsbD bitHalt = true) ∧
    (Quiet State.reset.me ∧ State.reset.halting = false ∧ State.reset.agenda = [] ∧ State.reset.me.idle = false ∧
      (State.reset.ctl .debugStatus).getLsbD bitHalt = false ∧ State.reset.flag bitActive = false) := by
  refine ⟨⟨quiet_of_ilat (by decide), ?_⟩, ⟨quiet_of_ilat (by decide), ?_⟩, quiet_of_ilat (by decide), ?_⟩ <;> decide

/-- A running core with interrupts latched. -/
def latched (v : Word) : State := nopState.setCtl .ilat v

theorem case_InterruptEntry :
    ((latched 0x101).flag bitGid = false ∧ Ready (latched 0x101).me 0) ∧
    ((latched 0x100).flag bitGid = false ∧ Ready (latched 0x100).me 8 ∧ ∀ j, j < 8 → ¬ Ready (latched 0x100).me j) := by
  unfold Ready
  decide

/-- LowerLevelWins: the levels at the ends of the range; a level pending, with itself latched again and the lowest one
entered. -/
theorem case_LowerLevelWins :
    (0 < 8 ∧ (latched 0x101).flag bitGid = false ∧ (∀ k, k < 9 → ((latched 0x101).ctl .ipend).getLsbD k = false) ∧
      ((latched 0x101).ctl .ilat).getLsbD 0 = true ∧ ((latched 0x101).ctl .ilat).getLsbD 8 = true ∧
      ((latched 0x101).ctl .imask).getLsbD 0 = false ∧ ((latched 0x101).ctl .imask).getLsbD 8 = false ∧
      ∀ k, k < 0 → ¬ Ready (latched 0x101).me k) ∧
    (((latched 0x101).setCtl .ipend 2).ctl .ipend).getLsbD 1 = true ∧
    (((latched 0x101).setCtl .ipend 0x100).ctl .ipend).getLsbD 8 = true ∧
      (∃ t, update ((latched 0x101).setCtl .ipend 2) = some t) ∧
      ∃ t, update ((latched 0x101).setCtl .ipend 0x100) = some t :=
  ⟨⟨by decide, by decide, by decide, by decide, by decide, by decide, by decide, by omega⟩, by decide, by decide,
    ⟨_, rfl⟩, _, rfl⟩

theorem case_ReturnUndoesEntry :
    ∃ t, (∀ b, b < 9 → ((latched 0x100).ctl .ipend).getLsbD b = false) ∧ update (latched 0x100) = some t ∧
      ¬ atLoopEnd t := by
  refine ⟨_, by decide, rfl, ?_⟩
  unfold atLoopEnd
  decide

/-- A core at the end of a hardware loop (V-HL-1). -/
def loopState : State := ((nopState.setCtl .le 0x100).setCtl .ls 0x80).setCtl .lc 2

theorem case_LoopEndTakesPrecedence :
    ∃ t, writesMemoryAtWill .nop = false ∧ exec .nop loopState = .next t ∧
      t.me.notes = .validInstruction :: loopState.me.notes ∧ atLoopEnd loopState ∧ t.pc = 0x80 ∧ t.ctl .lc = 1 := by
  refine ⟨_, rfl, rfl, ?_, ?_, ?_, ?_⟩
  · decide
  · unfold atLoopEnd; decide
  · decide
  · decide

/-- A state whose agenda holds one event. -/
def withEvent (e : Event) : State := { latched 0x100 with agenda := [e] }

/-- A machine whose run the host has ended. -/
def hostHalted : State := { State.reset with halting := true }

theorem case_OtherAgentsAct :
    (inGrid (withEvent .hostHalt).cfg core1 = true ∧ (withEvent .hostHalt).halting = false) ∧
    (∃ t, update { withEvent (.turn { row := 0, col := 0 }) with self := { row := 0, col := 0 }, agenda := [] } =
      some t) ∧
    (Quiet (State.core (withEvent (.turn core1)) core1)) ∧
    (∃ m, memWrite { withEvent .hostHalt with agenda := [] } core1 0x2000 .b4 7 = .ok m) ∧
    (aligned 0x2002 (accessBytes .b4) = false ∧ translate State.reset.cfg core1 0x04000000 = .invalid) ∧
    (((some Cause.softwareInterrupt).isSome = true ↔ (8 : Fin 9) = 1 ∨ (8 : Fin 9) = 8) ∧
      ((none : Option Cause).isSome = true ↔ (0 : Fin 9) = 1 ∨ (0 : Fin 9) = 8)) ∧
    (∃ t, step (withEvent .hostHalt) = .next t ∧ t.halting = true) ∧
    (hostHalted.halting = true) :=
  ⟨⟨by decide, rfl⟩, ⟨_, rfl⟩, quiet_of_ilat (by decide), ⟨_, rfl⟩, by decide, by decide, ⟨_, rfl, rfl⟩, rfl⟩

/-- TranslationCases: the first and the last address of every case (V-MEM-1 to V-MEM-20). -/
theorem case_TranslationCases :
    let at' := translate defaultConfig { row := 0, col := 0 }
    at' 0x8E000000 = .external 0 ∧ at' 0x8FFFFFFF = .external 0x1FFFFFF ∧ at' 0x8DFFFFFF = .invalid ∧
    at' 0x90000000 = .invalid ∧ at' 0 = .core { row := 0, col := 0 } 0 ∧
    at' 0xF00FF = .core { row := 0, col := 0 } 0xF00FF ∧ at' 0xF0100 = .invalid ∧ at' 0xF03FF = .invalid ∧
    at' 0xF0400 = .core { row := 0, col := 0 } 0xF0400 ∧ at' 0xF07FF = .core { row := 0, col := 0 } 0xF07FF ∧
    at' 0xF0800 = .invalid ∧ at' 0xFFFFF = .invalid ∧ at' 0x100000 = .core core1 0 ∧
    at' 0x1F00FF = .core core1 0xF00FF ∧ at' 0x1F0100 = .invalid ∧ at' 0x200000 = .invalid ∧
    at' 0x4000000 = .invalid := by
  decide

theorem case_CoreIdRoundTrip : inGrid defaultConfig core1 = true ∧ coreAddr core1 = 0x100000 := by
  decide

theorem case_AlignedAccessesStayWhole :
    configOk defaultConfig = true ∧ aligned 0xF00FC (accessBytes .b4) = true ∧
    translate defaultConfig core1 0xF00FC ≠ .invalid ∧ aligned 0x8FFFFFF8 8 = true ∧
    translate defaultConfig core1 0x8FFFFFF8 ≠ .invalid ∧ aligned 0xF00F8 8 = true ∧
    translate defaultConfig core1 0xF00F8 ≠ .invalid := by
  decide

theorem case_ReadsAreTheBytes :
    configOk nopState.cfg = true ∧ aligned 0xF07FE (accessBytes .b2) = true ∧
    translate nopState.cfg core1 0xF07FE ≠ .invalid ∧ aligned 0xF07FC (accessBytes .b4) = true ∧
    translate nopState.cfg core1 0xF07FC = .core core1 0xF07FC ∧ nopState.cfg.window.base ≤ 0xF07FC ∧
    0xF07FC < nopState.cfg.window.base + nopState.cfg.window.size := by
  decide

theorem case_WritesChangeTheirBytes :
    configOk nopState.cfg = true ∧ aligned 0xEFFFC (accessBytes .b4) = true ∧
    translate nopState.cfg core1 0xEFFFC = .core core1 0xEFFFC ∧ (Target.core core1 0xEFFFC).plain nopState.cfg.window = true ∧
    translate nopState.cfg core1 0x8FFFFFFF = .external 0x1FFFFFF ∧ 
    (Target.external 0x1FFFFFF).plain nopState.cfg.window = true := by
  decide

/-- The window of the default configuration. -/
def ruleWindow : RegWindow := { base := 0xF0000, size := 0x800 }

/-- WindowWriteEffects: the first and the last word of the window, and each register with an effect, by the offsets of
R30. -/
theorem case_WindowWriteEffects : nopState.cfg.window = ruleWindow ∧
    (∀ off ∈ [0xF0000, 0xF07FC, 0xF0404, 0xF0440, 0xF042C, 0xF0430, 0xF0448, 0xF070C], inWindow ruleWindow off = true ∧
      translate nopState.cfg nopState.self (BitVec.ofNat 32 off) = .core nopState.self off ∧
      aligned (BitVec.ofNat 32 off) 4 = true) ∧
    windowIndex ruleWindow 0xF0404 = Ctl.index .status ∧ windowIndex ruleWindow 0xF0440 = Ctl.index .fstatus ∧
    windowIndex ruleWindow 0xF042C = Ctl.index .ilatSt ∧ windowIndex ruleWindow 0xF0430 = Ctl.index .ilatCl ∧
    windowIndex ruleWindow 0xF0448 = Ctl.index .debugCmd ∧ windowIndex ruleWindow 0xF070C = Ctl.index .resetCore ∧
    (0#32).getLsbD 0 = false ∧ (1#32).getLsbD 0 = true := by
  decide

theorem case_NarrowWindowWrites :
    configOk nopState.cfg = true ∧ aligned 0xF0407 (accessBytes .b1) = true ∧ windowIndex ruleWindow 0xF0407 = Ctl.index .status ∧
    translate nopState.cfg nopState.self 0xF0407 = .core nopState.self 0xF0407 ∧ inWindow ruleWindow 0xF0407 = true ∧
    aligned 0xF07FE (accessBytes .b2) = true ∧ translate nopState.cfg nopState.self 0xF07FE = .core nopState.self 0xF07FE ∧
    windowIndex ruleWindow 0xF07FE ∉ [Ctl.index .status, Ctl.index .fstatus, Ctl.index .ilatSt, Ctl.index .ilatCl,
      Ctl.index .debugCmd, Ctl.index .resetCore] := by
  decide

/-- SubCompletes, LogicCompletes, ShiftsComplete and ConditionTable ask for the rule's arithmetic unit. -/
theorem case_ruleAlu : nopState.cfg.alu = ruleAlu ∧ nopState.cfg.conds = ruleConds := ⟨rfl, rfl⟩

/-- ConditionsCompareAfterSub: a register form and an immediate form with the smallest immediate. -/
theorem case_ConditionsCompareAfterSub :
    nopState.cfg.alu = ruleAlu ∧ nopState.cfg.conds = ruleConds ∧
    (∃ rd rn rm : RegIdx, Instr.sub32 2 0 63 = .sub32 rd rn rm ∧ nopState.reg 0 = nopState.reg rn ∧
      nopState.reg 63 = nopState.reg rm) ∧
    ∃ (rd rn : RegLow) (imm : BitVec 3), Instr.subImm16 2 7 4 = .subImm16 rd rn imm ∧
      nopState.reg 7 = nopState.reg (lowReg rn) ∧ (0xFFFFFFFC : Word) = BitVec.ofInt 32 imm.toInt :=
  ⟨rfl, rfl, ⟨2, 0, 63, rfl, rfl, rfl⟩, 2, 7, 4, rfl, rfl, by decide⟩

theorem case_MovesComplete :
    Cond.eq ≠ .link ∧ condHolds nopState.cfg ((nopState.setFlag bitAZ true).ctl .status) .eq = true ∧
    condHolds nopState.cfg (nopState.ctl .status) .eq = false := by
  decide

/-- A configuration in which control registers are reserved too. -/
def reservingConfig : Config := { defaultConfig with reservedB := { lo := 0xF0600, hi := 0x100000 } }

/-- MovtsCompletes and MovfsCompletes: the first and the last word that may be named, and a reserved one. -/
theorem case_MovtsCompletes :
    configOk defaultConfig = true ∧ configOk reservingConfig = true ∧ defaultConfig.window.base = 0xF0000 ∧
    reservingConfig.window.base = 0xF0000 ∧
    reserved defaultConfig (0xF0000 + 4 * (256 + 64 * 0 + 0)) = false ∧
    reserved defaultConfig (0xF0000 + 4 * (256 + 64 * 3 + 63)) = false ∧
    reserved reservingConfig (0xF0000 + 4 * (256 + 64 * 1 + 63)) = false ∧
    reserved reservingConfig (0xF0000 + 4 * (256 + 64 * 2 + 0)) = true := by
  decide

/-- A core with R1 = 0x2000 and R2 = 2, R3 = a register, R4 = nowhere, R5 = another core's memory, R7 = a register
window. -/
def transferState : State :=
  (((((nopState.setReg 1 0x2000).setReg 2 2).setReg 3 0xF0404).setReg 4 0x04000000).setReg 5 0x102000).setReg 7 0xF0000

theorem case_LoadsComplete :
    configOk transferState.cfg = true ∧
    (∃ x, loadForm transferState (.ldrDisp16 6 1 7 .double) = some x ∧ (Instr.ldrDisp16 6 1 7 .double).WellFormed ∧
      x.ea = 0x2038 ∧ x.ea.toNat % sizeBytes x.size = 0 ∧ translate transferState.cfg transferState.self x.ea ≠ .invalid ∧
      ¬ baseLoaded x) ∧
    (∃ x, loadForm transferState (.ldrPost32 0 1 2 .byte true) = some x ∧ x.ea = 0x2000 ∧ x.base = some (1, 0x1FFE) ∧
      translate transferState.cfg transferState.self x.ea ≠ .invalid ∧ ¬ baseLoaded x) := by
  refine ⟨by decide, ⟨_, rfl, rfl, by decide, by decide, by decide, ?_⟩, ⟨_, rfl, by decide, by decide, by decide, ?_⟩⟩
  · rintro ⟨rn, v, h, -⟩
    cases h
  · rintro ⟨rn, v, h, hm⟩
    cases h
    revert hm
    decide

theorem case_StoresComplete :
    (∃ x, storeForm transferState (.strDispPost 6 1 2047 .double true) = some x ∧ x.ea = 0x2000 ∧
      x.ea.toNat % sizeBytes x.size = 0 ∧
      translate transferState.cfg transferState.self x.ea = .core transferState.self 0x2000 ∧
      (Target.core transferState.self 0x2000).plain transferState.cfg.window = true) :=
  ⟨_, rfl, by decide, by decide, by decide, by decide⟩

/-- StoresIntoWindows: a word onto STATUS, a doubleword onto the last two words of the window, a byte onto its last
byte. -/
theorem case_StoresIntoWindows :
    (∃ x, storeForm transferState (.strDisp16 6 3 0 .word) = some x ∧ x.ea.toNat % sizeBytes x.size = 0 ∧
      translate transferState.cfg transferState.self x.ea = .core transferState.self 0xF0404 ∧
      inWindow transferState.cfg.window 0xF0404 = true) ∧
    (∃ x, storeForm transferState (.strDisp32 6 7 255 .double false) = some x ∧ x.ea.toNat % sizeBytes x.size = 0 ∧
      translate transferState.cfg transferState.self x.ea = .core transferState.self 0xF07F8 ∧
      inWindow transferState.cfg.window 0xF07F8 = true) ∧
    ∃ x, storeForm transferState (.strDisp32 6 7 0x7FF .byte false) = some x ∧
      translate transferState.cfg transferState.self x.ea = .core transferState.self 0xF07FF ∧
      inWindow transferState.cfg.window 0xF07FF = true ∧ windowIndex transferState.cfg.window 0xF07FF = 511 :=
  ⟨⟨_, rfl, by decide, by decide, by decide⟩, ⟨_, rfl, by decide, by decide, by decide⟩,
    ⟨_, rfl, by decide, by decide, by decide⟩⟩

theorem case_MisalignedIsAbandoned :
    (∃ x, loadForm transferState (.ldrIndex32 0 1 2 .word false) = some x ∧ ¬ baseLoaded x ∧
      x.ea.toNat % sizeBytes x.size = 2) ∧
    (∃ x, storeForm transferState (.strIndex32 0 1 2 .double false) = some x ∧ x.ea.toNat % sizeBytes x.size = 2) ∧
    (indexAddr transferState 1 2 true).toNat % 4 = 2 := by
  refine ⟨⟨_, rfl, ?_, by decide⟩, ⟨_, rfl, by decide⟩, by decide⟩
  rintro ⟨rn, v, h, -⟩
  cases h

theorem case_InvalidAddressHalts :
    (∃ x, loadForm transferState (.ldrDisp32 0 4 0 .word false) = some x ∧ x.ea.toNat % sizeBytes x.size = 0 ∧
      translate transferState.cfg transferState.self x.ea = .invalid ∧ ¬ baseLoaded x) ∧
    ∃ x, storeForm transferState (.strDisp32 0 4 0 .word false) = some x ∧
      translate transferState.cfg transferState.self x.ea = .invalid := by
  refine ⟨⟨_, rfl, by decide, by decide, ?_⟩, ⟨_, rfl, by decide⟩⟩
  rintro ⟨rn, v, h, -⟩
  cases h

theorem case_RefusedTransfers : transferState.cfg.window = ruleWindow ∧
    (∃ x, loadForm transferState (.ldrPost16 1 1 2 .word) = some x ∧ baseLoaded x) ∧
    (∃ x, loadForm transferState (.ldrPost16 0 1 2 .double) = some x ∧ baseLoaded x) ∧
    ∃ x, storeForm transferState (.strDisp16 0 3 0 .byte) = some x ∧ x.size = .byte ∧
      translate transferState.cfg transferState.self x.ea = .core transferState.self 0xF0404 ∧
      inWindow ruleWindow 0xF0404 = true ∧ windowIndex ruleWindow 0xF0404 = Ctl.index .status :=
  ⟨rfl, ⟨_, rfl, _, _, rfl, by decide⟩, ⟨_, rfl, _, _, rfl, by decide⟩, ⟨_, rfl, rfl, by decide, by decide, by decide⟩⟩

/-- The state in which R1 holds an address and R2 is 0. -/
def addressIn (a : Word) : State := State.reset.setReg 1 a

/-- TestsetCompletes: another core's memory, its window, the own memory, external memory, a misaligned address. -/
theorem case_TestsetCompletes : configOk defaultConfig = true ∧ (addressIn 0x102000).cfg.window = ruleWindow ∧
    (indexAddr (addressIn 0x102000) 1 2 false).toNat % 4 = 0 ∧
    translate defaultConfig State.reset.self (indexAddr (addressIn 0x102000) 1 2 false) = .core core1 0x2000 ∧
    core1 ≠ (addressIn 0x102000).self ∧ inWindow ruleWindow 0x2000 = false ∧
    translate defaultConfig State.reset.self (indexAddr (addressIn 0x1F0000) 1 2 true) = .core core1 0xF0000 ∧
    inWindow ruleWindow 0xF0000 = true ∧
    translate defaultConfig State.reset.self (indexAddr (addressIn 0x2000) 1 2 false) = .core State.reset.self 0x2000 ∧
    translate defaultConfig State.reset.self (indexAddr (addressIn 0x8E000000) 1 2 false) = .external 0 ∧
    (indexAddr (addressIn 0x102002) 1 2 false).toNat % 4 = 2 := by
  decide

/-- BranchesComplete: the three cases. -/
theorem case_BranchesComplete : nopState.cfg.link = ruleLink ∧
    condHolds nopState.cfg (nopState.ctl .status) .link = true ∧
    condHolds nopState.cfg (nopState.ctl .status) .ne = true ∧
    condHolds nopState.cfg (nopState.ctl .status) .eq = false := by
  decide

/-- The float statements ask for float mode and the default numerics. -/
theorem case_FloatArithmeticCompletes : arithMode nopState = 0 ∧ nopState.cfg.fp = ruleFp := by
  decide

theorem case_FloatUnaryCompletes :
    arithMode nopState = 0 ∧ nopState.cfg.fp = ruleFp ∧
    (∃ d n : RegLow, Instr.float16 7 1 1 = .float16 d n n ∧ (7 : RegIdx) = lowReg d ∧ (1 : RegIdx) = lowReg n) ∧
    Instr.fabs32 63 62 62 = .fabs32 63 62 62 :=
  ⟨by decide, by decide, ⟨7, 1, rfl, rfl, rfl⟩, rfl⟩

theorem case_IntegerModeIsRefused : arithMode (nopState.setCtl .config 0x00080000) ≠ 0 := by
  decide

theorem case_FloatResultsAreSafe : isNaN 0x7F800001 = true ∧ isNaN 0x7F800000 = false ∧ isNaN 0xFFFFFFFF = true ∧
    FpArithOp.fmsub ∉ (ruleFp.options .epiphanyIV).otherArith ∧ isDenormal 0x007FFFFF = true ∧
    fpExp 0x40200000 ≠ 255 ∧ isDenormal 0x40200000 = false ∧ fpFix false 0x40200000 = ⟨2, false, false, false⟩ := by
  decide

/-- The versions are told apart (R287): FADD of 1 and NaN with another path on EpiphanyIV only. -/
theorem test_float_versions :
    let n : FpNumerics := { ruleFp with iv := { ruleOptions with qnanLow := 0x3FFFFF, otherArith := [.fadd] } }
    (fpArith n .epiphanyIII .fadd false false 0x3F800000 0x7F800001 0).word = 0x7FC00000 ∧
    (fpArith n .epiphanyIV .fadd false false 0x3F800000 0x7F800001 0).word = 0x7FFFFFFF :=
  ⟨by decide, by decide⟩

theorem case_RoundingIsNearest :
    16777215 < 2 ^ 24 ∧ 16777215 * 2 ^ 1 ≤ 33554431 ∧ roundMag false 33554431 = 33554432 ∧
    roundMag false 33554429 = 33554428 ∧ roundMag true 33554431 = 33554430 := by
  decide

/-- FiniteArithmeticIsRounded: 1 + 2, twice the largest number, the difference of the two smallest normal numbers,
1 - 1, and 3 * 2 + 1; infinities of both signs, and a denormal beside one. -/
theorem case_FiniteArithmeticIsRounded :
    (fpExp 0x3F800000 ≠ 255 ∧ fpExp 0x40000000 ≠ 255 ∧ fpExp 0x7F7FFFFF ≠ 255 ∧ fpExp 0x00800000 ≠ 255 ∧
      fpExp 0x00800001 ≠ 255) ∧
    (let e := (fpValue 0x3F800000 + fpValue 0x40000000) * 2 ^ 149;
      e ≠ 0 ∧ 2 ^ 172 ≤ roundMag false e.natAbs ∧ roundMag false e.natAbs < 2 ^ 426) ∧
    (let e := (fpValue 0x7F7FFFFF + fpValue 0x7F7FFFFF) * 2 ^ 149;
      e ≠ 0 ∧ 2 ^ 426 ≤ roundMag false e.natAbs) ∧
    (let e := (fpValue 0x00800000 - fpValue 0x00800001) * 2 ^ 149;
      e ≠ 0 ∧ roundMag false e.natAbs < 2 ^ 172) ∧
    (fpValue 0x3F800000 - fpValue 0x3F800000) * 2 ^ 149 = 0 ∧
    (let e := fpValue 0x3F800000 * 2 ^ 149 + fpValue 0x40400000 * fpValue 0x40000000;
      e ≠ 0 ∧ 2 ^ 172 ≤ roundMag false e.natAbs ∧ roundMag false e.natAbs < 2 ^ 426) ∧
    (isNaN 0x7F800000 = false ∧ isNaN 0xFF800000 = false ∧ isNaN 0x00000001 = false ∧ isInf 0x7F800000 = true ∧
      isInf 0xFF800000 = true ∧ fpSign 0x7F800000 ≠ fpSign 0xFF800000 ∧ isInf 0x3F800000 = false ∧
      isZero (flushIn 0x00000001) = true ∧ isZero (flushIn 0x3F800000) = false) := by
  decide +kernel

theorem case_ConversionValues :
    fpExp 0x7FC00000 = 255 ∧ isDenormal 0x00000001 = true ∧ fpExp 0x40200000 ≠ 255 ∧ isDenormal 0x40200000 = false := by
  decide

/-- WiredAndCompletes: the other core's flag set, and not. -/
theorem case_WiredAndCompletes :
    inGrid nopState.cfg nopState.self = true ∧ inGrid nopState.cfg core1 = true ∧ core1 ≠ nopState.self ∧
    ((nopState.core core1).ctl .status).getLsbD bitWand = false ∧
    (((nopState.setCore core1 ((nopState.core core1).setCtl .status 8)).core core1).ctl .status).getLsbD bitWand =
      true := by
  decide

/-- ReturnFromInterruptCompletes: the lowest and the highest level pending, and none. -/
theorem case_ReturnFromInterruptCompletes :
    ((nopState.setCtl .ipend 0x101).ctl .ipend).getLsbD 0 = true ∧
    (((nopState.setCtl .ipend 0x100).ctl .ipend).getLsbD 8 = true ∧
      ∀ j, j < 8 → ((nopState.setCtl .ipend 0x100).ctl .ipend).getLsbD j = false) ∧
    ∀ i, i < 9 → (nopState.ctl .ipend).getLsbD i = false := by
  decide

theorem case_TrapCompletes :
    nopState.cfg.kernel = .none ∧ ({ nopState with cfg := { nopState.cfg with kernel := .all } } : State).cfg.kernel = .all ∧
    ((0 : BitVec 6) ≠ 3 ∧ (0 : BitVec 6) ≠ 4 ∧ (0 : BitVec 6) ≠ 5 ∧ (0 : BitVec 6) ≠ 7) ∧ inGrid nopState.cfg core1 = true ∧
    (∃ m, memWrite nopState core1 0x2000 .b4 7 = .ok m) ∧ aligned 0x2002 (accessBytes .b4) = false :=
  ⟨rfl, rfl, by decide, by decide, ⟨_, rfl⟩, by decide⟩

/-- A kernel's write as another core lands on that core, and one that faults changes nothing. -/
theorem test_kernel_writes :
    (match kernelWrites [⟨core1, 0x2000, .b4, 7⟩, ⟨core1, 0x2002, .b4, 9⟩] nopState with
      | .ok t => read4 t 0x102000 == some 7 && read4 t 0x2000 == some 0
      | _ => false) = true := by
  decide

theorem case_ResetMeetsInvariant : configOk reservingConfig = true := by
  decide

theorem case_StepKeepsInvariant : nopState.Inv ∧ ∃ t, step nopState = .next t :=
  ⟨⟨by decide, by decide, by decide, by decide, by decide, by decide⟩, _, rfl⟩

theorem case_ParametersAreNotState : ∃ t, step nopState = .next t := ⟨_, rfl⟩

/-- IdleFlagRule: IDLE run, and an idle core woken. -/
theorem case_IdleFlagRule :
    (∃ t, step idleState = .next t ∧ (idleState.core idleState.self).idle = false ∧
      (t.core idleState.self).idle = true) ∧
    ∃ t, step ((latched 0x100).modMe fun c => { c with idle := true }) = .next t ∧
      (((latched 0x100).modMe fun c => { c with idle := true }).core nopState.self).idle = true ∧
      (t.core nopState.self).idle = false :=
  ⟨⟨_, rfl, by decide, by decide⟩, _, rfl, by decide, by decide⟩

theorem case_OutcomesOnlyByTrap :
    (∃ t, step (placed 16 0x0FE2 fun s => s.setReg 0 5) = .next t ∧ (t.core State.reset.self).exitCode = 5) ∧
    (∃ t, step (placed 16 0x13E2 id) = .next t ∧ (t.core State.reset.self).passed = true) ∧
    ∃ t, step (placed 16 0x17E2 id) = .next t ∧ (t.core State.reset.self).failed = true :=
  ⟨⟨_, rfl, by decide⟩, ⟨_, rfl, by decide⟩, _, rfl, by decide⟩

theorem case_FlagsAreWrittenByTheirInstructions :
    writesMemoryAtWill .nop = false ∧ writesFlags .nop = false ∧ (nopState.setFlag bitAVS true).flag bitAVS = true ∧
    ∃ t, exec .nop (nopState.setFlag bitAVS true) = .next t :=
  ⟨rfl, rfl, by decide, _, rfl⟩

end Sys2Proof.Tests
end

section
/-! Family 10_state.md: core numbers and addresses (R63), and words written to a register window (R31, R90). -/

namespace Sys2Proof.Machine

/-! ## Core numbers and addresses (R63) -/

theorem coreAddr_toNat (c : CoreId) : (coreAddr c).toNat = c.row.toNat * 2 ^ 26 + c.col.toNat * 2 ^ 20 := by
  have hr := c.row.isLt
  have hc := c.col.isLt
  have hor : c.row.toNat * 2 ^ 26 ||| c.col.toNat * 2 ^ 20 = c.row.toNat * 2 ^ 26 + c.col.toNat * 2 ^ 20 := by
    rw [Nat.mul_comm, ← Nat.two_pow_add_eq_or_of_lt (by omega)]
  rw [← hor]
  simp only [coreAddr, BitVec.toNat_or, BitVec.toNat_shiftLeft, BitVec.toNat_setWidth, Nat.shiftLeft_eq]
  congr 1 <;> omega

theorem coreIdOf_row (a : Word) : (coreIdOf a).row.toNat = a.toNat / 2 ^ 26 := by
  have ha := a.isLt
  simp only [coreIdOf, BitVec.extractLsb'_toNat, Nat.shiftRight_eq_div_pow]
  omega

theorem coreIdOf_col (a : Word) : (coreIdOf a).col.toNat = a.toNat / 2 ^ 20 % 64 := by
  simp only [coreIdOf, BitVec.extractLsb'_toNat, Nat.shiftRight_eq_div_pow, Nat.reducePow]

theorem offsetOf_eq (a : Word) : offsetOf a = a.toNat % 2 ^ 20 := by
  simp only [offsetOf, BitVec.extractLsb'_toNat, Nat.shiftRight_zero]

theorem coreIdOf_coreAddr (c : CoreId) : coreIdOf (coreAddr c) = c := by
  have hc := c.col.isLt
  apply CoreId.key_inj
  simp only [CoreId.key, coreIdOf_row, coreIdOf_col, coreAddr_toNat]
  omega

theorem offsetOf_coreAddr (c : CoreId) : offsetOf (coreAddr c) = 0 := by
  rw [offsetOf_eq, coreAddr_toNat]
  omega

/-- Settles O17: the round trip is that of the numbers, and needs no bound of a grid. -/
theorem coreIdRoundTrip : Obligations.CoreIdRoundTrip :=
  ⟨coreAddr_toNat, fun a => ⟨coreIdOf_row a, coreIdOf_col a, offsetOf_eq a⟩,
    fun _ c _ => ⟨coreIdOf_coreAddr c, offsetOf_coreAddr c⟩⟩

/-! ## Bits of the merged words (R34, R41) -/

theorem getLsbD_and_not (u v : Word) (b : Nat) : (u &&& ~~~v).getLsbD b = (u.getLsbD b && !v.getLsbD b) := by
  rw [BitVec.getLsbD_and, BitVec.getLsbD_not]
  by_cases hb : b < 32
  · simp [hb]
  · simp [BitVec.getLsbD_of_ge u b (by omega)]

theorem getLsbD_mergeStatus (old v : Word) (b : Nat) :
    (mergeStatus old v).getLsbD b = if b < 3 then old.getLsbD b else v.getLsbD b := by
  have low : (7#32).getLsbD b = decide (b < 3) := by
    have hb : Nat.testBit 7 b = decide (b < 3) := Nat.testBit_two_pow_sub_one 3 b
    rw [BitVec.getLsbD_ofNat, hb, ← Bool.decide_and]
    exact decide_eq_decide.mpr (by omega)
  rw [mergeStatus, BitVec.getLsbD_or, getLsbD_and_not, BitVec.getLsbD_and, low]
  by_cases hb : b < 3 <;> simp [hb]

theorem lowTwoBits_eq_iff (v : Word) (u : BitVec 2) :
    v.extractLsb' 0 2 = u ↔ v.getLsbD 0 = u.getLsbD 0 ∧ v.getLsbD 1 = u.getLsbD 1 := by
  rw [BitVec.eq_of_getLsbD_eq_iff]
  constructor
  · intro h
    exact ⟨by simpa using h 0 (by decide), by simpa using h 1 (by decide)⟩
  · rintro ⟨h0, h1⟩ i hi
    interval_cases i
    · simpa using h0
    · simpa using h1

/-- DEBUGSTATUS after a DEBUGCMD of `v` (R41): bits 1:0 of the command are 01 to halt and 00 to resume; the others do
nothing. `ECore.word_writeWord_debugCmd` ties it to the model. -/
def debugCommand (old v : Word) : Word :=
  if v.extractLsb' 0 2 = 0b01#2 then setBit old bitHalt true
  else if v.extractLsb' 0 2 = 0b00#2 then setBit old bitHalt false
  else old

theorem getLsbD_debugCommand (old v : Word) (b : Nat) :
    (debugCommand old v).getLsbD b = if b = 0 ∧ v.getLsbD 1 = false then v.getLsbD 0 else old.getLsbD b := by
  have halt : ∀ f, (setBit old bitHalt f).getLsbD b = if b = 0 then f else old.getLsbD b :=
    fun f => getLsbD_setBit old bitHalt b f (by decide)
  simp only [debugCommand, lowTwoBits_eq_iff]
  cases h1 : v.getLsbD 1 with
  | true => simp
  | false => cases h0 : v.getLsbD 0 <;> simp [halt]

/-! ## A word of the window after a memory-mapped write (R31, R90) -/

section
variable (x : ECore) (v : Word) (j : Nat)

theorem ECore.word_writeWord_status : (x.writeWord (Ctl.index .status) v).word j =
    if j = Ctl.index .status then mergeStatus (x.ctl .status) v else x.word j := by
  simp only [ECore.writeWord, if_true, ECore.word_setCtl]

theorem ECore.word_writeWord_fstatus : (x.writeWord (Ctl.index .fstatus) v).word j =
    if j = Ctl.index .fstatus ∨ j = Ctl.index .status then v else x.word j := by
  simp only [ECore.writeWord, Ctl.index_eq_iff, reduceCtorEq, if_true, if_false, ECore.word_setCtl, ite_or]

theorem ECore.word_writeWord_ilatSt : (x.writeWord (Ctl.index .ilatSt) v).word j =
    if j = Ctl.index .ilatSt then v else if j = Ctl.index .ilat then x.ctl .ilat ||| v else x.word j := by
  simp only [ECore.writeWord, Ctl.index_eq_iff, reduceCtorEq, if_true, if_false, ECore.word_setCtl]

theorem ECore.word_writeWord_ilatCl : (x.writeWord (Ctl.index .ilatCl) v).word j =
    if j = Ctl.index .ilatCl then v else if j = Ctl.index .ilat then x.ctl .ilat &&& ~~~v else x.word j := by
  simp only [ECore.writeWord, Ctl.index_eq_iff, reduceCtorEq, if_true, if_false, ECore.word_setCtl]

theorem ECore.word_writeWord_debugCmd : (x.writeWord (Ctl.index .debugCmd) v).word j =
    if j = Ctl.index .debugCmd then v
    else if j = Ctl.index .debugStatus then debugCommand (x.ctl .debugStatus) v else x.word j := by
  simp only [ECore.writeWord, Ctl.index_eq_iff, reduceCtorEq, if_true, if_false, ECore.word_setCtl, debugCommand]
  split_ifs <;> simp_all [ECore.word_setCtl, ECore.ctl]

theorem ECore.word_writeWord_resetCore : (x.writeWord (Ctl.index .resetCore) v).word j =
    if j = Ctl.index .resetCore then v else if v.getLsbD 0 then x.word j else 0 := by
  simp only [ECore.writeWord, Ctl.index_eq_iff, reduceCtorEq, if_true, if_false, ECore.word_setCtl]
  cases v.getLsbD 0 <;> rfl

theorem ECore.word_writeWord_plain {k : Nat} (hk : sideEffectWord k = false) :
    (x.writeWord k v).word j = if j = k then v else x.word j := by
  simp only [sideEffectWord, Bool.or_eq_false_iff, beq_eq_false_iff_ne] at hk
  obtain ⟨⟨⟨⟨⟨hstatus, hfstatus⟩, hilatSt⟩, hilatCl⟩, hdebugCmd⟩, hresetCore⟩ := hk
  simp only [ECore.writeWord, hstatus, hfstatus, hilatSt, hilatCl, hdebugCmd, hresetCore, if_false,
    ECore.word_setWord]

/-- A word of the window is one of the six registers with a side effect, or plain storage. -/
theorem sideEffectWord_cases (k : Nat) :
    k = Ctl.index .status ∨ k = Ctl.index .fstatus ∨ k = Ctl.index .ilatSt ∨ k = Ctl.index .ilatCl ∨
      k = Ctl.index .debugCmd ∨ k = Ctl.index .resetCore ∨ sideEffectWord k = false := by
  cases h : sideEffectWord k with
  | false => simp
  | true => simpa only [sideEffectWord, Bool.or_eq_true, beq_iff_eq, or_assoc, reduceCtorEq, or_false] using h

/-- The cell written keeps the raw word, that of STATUS excepted. -/
theorem ECore.word_writeWord_self {k : Nat} (hk : k ≠ Ctl.index .status) : (x.writeWord k v).word k = v := by
  rcases sideEffectWord_cases k with rfl | rfl | rfl | rfl | rfl | rfl | hplain
  · exact absurd rfl hk
  · rw [word_writeWord_fstatus, if_pos (.inl rfl)]
  · rw [word_writeWord_ilatSt, if_pos rfl]
  · rw [word_writeWord_ilatCl, if_pos rfl]
  · rw [word_writeWord_debugCmd, if_pos rfl]
  · rw [word_writeWord_resetCore, if_pos rfl]
  · rw [word_writeWord_plain x v k hplain, if_pos rfl]

/-- The frame of a memory-mapped write: a word is kept unless it is the one written or the one its side effect
changes. -/
theorem ECore.word_writeWord_of_ne {k j : Nat} (hj : j ≠ k)
    (hstatus : k = Ctl.index .fstatus → j ≠ Ctl.index .status)
    (hilat : k = Ctl.index .ilatSt ∨ k = Ctl.index .ilatCl → j ≠ Ctl.index .ilat)
    (hdebug : k = Ctl.index .debugCmd → j ≠ Ctl.index .debugStatus)
    (hreset : k = Ctl.index .resetCore → v.getLsbD 0 = true) : (x.writeWord k v).word j = x.word j := by
  rcases sideEffectWord_cases k with rfl | rfl | rfl | rfl | rfl | rfl | hplain
  · rw [word_writeWord_status, if_neg hj]
  · rw [word_writeWord_fstatus, if_neg (not_or.mpr ⟨hj, hstatus rfl⟩)]
  · rw [word_writeWord_ilatSt, if_neg hj, if_neg (hilat (.inl rfl))]
  · rw [word_writeWord_ilatCl, if_neg hj, if_neg (hilat (.inr rfl))]
  · rw [word_writeWord_debugCmd, if_neg hj, if_neg (hdebug rfl)]
  · rw [word_writeWord_resetCore, if_neg hj, if_pos (hreset rfl)]
  · rw [word_writeWord_plain x v j hplain, if_neg hj]

end

/-- Settles O21: the write replaces the owning core by its `ECore.writeWord`, whose frame and whose value at each
register with a side effect are the clauses. -/
theorem windowWriteEffects : Obligations.WindowWriteEffects := by
  intro s c d a off v ha ht hw
  refine ⟨_, memWrite_core s ha ht (ECore.store_word _ v hw), fun e he => State.core_setCore_ne s _ he, ?_⟩
  rw [State.setCore_ext, State.core_setCore_same]
  generalize windowIndex s.cfg.window off = k
  generalize s.core d = x
  obtain ⟨hmem, hidle, hpassed, hfailed, hexit, -⟩ := x.writeWord_rest k v
  refine ⟨hmem, hidle, hpassed, hfailed, hexit, rfl, ?frame, x.word_writeWord_self v, ?status, ?fstatus, ?statusKept,
    ?ilatSt, ?ilatCl, ?ilatKept, ?debugCmd, ?debugKept, ?resetClear, ?resetSet⟩
  case frame =>
    intro j hj hstatus hilat hdebug hreset
    exact x.word_writeWord_of_ne v hj (fun _ => hstatus) (fun _ => hilat) (fun _ => hdebug)
      fun hk => by simpa [hk] using hreset
  case status =>
    rintro rfl b
    rw [ECore.ctl, x.word_writeWord_status, if_pos rfl, getLsbD_mergeStatus]
  case fstatus =>
    rintro rfl
    rw [ECore.ctl, x.word_writeWord_fstatus, if_pos (.inr rfl)]
  case ilatSt =>
    rintro rfl b
    rw [ECore.ctl, x.word_writeWord_ilatSt, if_neg (by decide), if_pos rfl, BitVec.getLsbD_or]
  case ilatCl =>
    rintro rfl b
    rw [ECore.ctl, x.word_writeWord_ilatCl, if_neg (by decide), if_pos rfl, getLsbD_and_not]
  case debugCmd =>
    rintro rfl b
    rw [ECore.ctl, x.word_writeWord_debugCmd, if_neg (by decide), if_pos rfl, getLsbD_debugCommand]
  case statusKept =>
    intro hk
    simp only [List.mem_cons, List.not_mem_nil, or_false, not_or] at hk
    obtain ⟨hself, hfstatus, hreset⟩ := hk
    exact x.word_writeWord_of_ne v (Ne.symm hself) (absurd · hfstatus) (fun _ => by decide) (fun _ => by decide)
      (absurd · hreset)
  case ilatKept =>
    intro hk
    simp only [List.mem_cons, List.not_mem_nil, or_false, not_or] at hk
    obtain ⟨hself, hset, hclear, hreset⟩ := hk
    exact x.word_writeWord_of_ne v (Ne.symm hself) (fun _ => by decide) (Or.elim · (absurd · hset) (absurd · hclear))
      (fun _ => by decide) (absurd · hreset)
  case debugKept =>
    intro hk
    simp only [List.mem_cons, List.not_mem_nil, or_false, not_or] at hk
    obtain ⟨hself, hcommand, hreset⟩ := hk
    exact x.word_writeWord_of_ne v (Ne.symm hself) (fun _ => by decide) (fun _ => by decide) (absurd · hcommand)
      (absurd · hreset)
  case resetClear =>
    rintro rfl hv j hj
    rw [x.word_writeWord_resetCore, if_neg hj, hv, if_neg (by decide)]
  case resetSet =>
    rintro rfl hv j hj
    rw [x.word_writeWord_resetCore, if_neg hj, if_pos hv]

end Sys2Proof.Machine
end

section
/-! Family 20_memory.md: the cases of address translation (R70 to R75), and TESTSET (R102, R104, R236). -/

namespace Sys2Proof.Machine

/-! ## The cases of address translation (R70 to R75) -/

/-- An address of the issuing core's own range lies below `2^20` (R72). -/
theorem coreBits_eq_zero_iff (a : Word) : a.extractLsb' 20 12 = 0#12 ↔ a.toNat < 2 ^ 20 := by
  have ha := a.isLt
  rw [← BitVec.toNat_inj, BitVec.extractLsb'_toNat, Nat.shiftRight_eq_div_pow, BitVec.toNat_ofNat]
  omega

theorem inGrid_coreIdOf (cfg : Config) (a : Word) :
    inGrid cfg (coreIdOf a) = true ↔ a.toNat / 2 ^ 26 < cfg.rows ∧ a.toNat / 2 ^ 20 % 64 < cfg.cols := by
  rw [inGrid, Bool.and_eq_true, decide_eq_true_iff, decide_eq_true_iff, coreIdOf_row, coreIdOf_col]

theorem reserved_iff (cfg : Config) (off : Nat) : reserved cfg off = true ↔
    (cfg.reservedA.lo ≤ off ∧ off < cfg.reservedA.hi) ∨ (cfg.reservedB.lo ≤ off ∧ off < cfg.reservedB.hi) := by
  simp only [reserved, Bool.or_eq_true, Bool.and_eq_true, decide_eq_true_eq]

theorem localTarget_of_reserved {cfg : Config} {off : Nat} (c : CoreId) (h : reserved cfg off = true) :
    localTarget cfg c off = .invalid := if_pos h

theorem localTarget_of_not_reserved {cfg : Config} {off : Nat} (c : CoreId) (h : ¬ reserved cfg off = true) :
    localTarget cfg c off = .core c off := if_neg h

section
variable {cfg : Config} {a : Word} (self : CoreId)

theorem translate_of_external (hext : cfg.extBase ≤ a.toNat ∧ a.toNat < cfg.extBase + cfg.extSize) :
    translate cfg self a = .external (a.toNat - cfg.extBase) := if_pos hext

theorem translate_of_lowRange (hext : ¬(cfg.extBase ≤ a.toNat ∧ a.toNat < cfg.extBase + cfg.extSize))
    (hlocal : a.toNat < 2 ^ 20) : translate cfg self a = localTarget cfg self (a.toNat % 2 ^ 20) := by
  rw [translate, if_neg hext, if_pos ((coreBits_eq_zero_iff a).mpr hlocal), offsetOf_eq]

theorem translate_of_grid (hext : ¬(cfg.extBase ≤ a.toNat ∧ a.toNat < cfg.extBase + cfg.extSize))
    (hlocal : ¬ a.toNat < 2 ^ 20) (hgrid : inGrid cfg (coreIdOf a) = true) :
    translate cfg self a = localTarget cfg (coreIdOf a) (a.toNat % 2 ^ 20) := by
  rw [translate, if_neg hext, if_neg (mt (coreBits_eq_zero_iff a).mp hlocal), if_pos hgrid, offsetOf_eq]

theorem translate_of_not_grid (hext : ¬(cfg.extBase ≤ a.toNat ∧ a.toNat < cfg.extBase + cfg.extSize))
    (hlocal : ¬ a.toNat < 2 ^ 20) (hgrid : ¬ inGrid cfg (coreIdOf a) = true) :
    translate cfg self a = .invalid := by
  rw [translate, if_neg hext, if_neg (mt (coreBits_eq_zero_iff a).mp hlocal), if_neg hgrid]

end

/-- Settles O16: the tests of `translate` are the statement's ranges, and the last step of a local address is the
reserved ranges of `localTarget`. -/
theorem translationCases : Obligations.TranslationCases := by
  intro cfg self a row col off inReserved isExternal isAlias isGlobal
  have hlocal : ¬ isExternal → ¬ isAlias → ¬ a.toNat < 2 ^ 20 := fun hext hnot hlow => hnot ⟨hext, hlow⟩
  refine ⟨translate_of_external self, ?own, ?grid, ?reserved, ?outside⟩
  case own =>
    rintro ⟨hext, hlow⟩ hfree
    rw [translate_of_lowRange self hext hlow, localTarget_of_not_reserved self (mt (reserved_iff cfg _).mp hfree)]
  case grid =>
    rintro ⟨hext, hnot, hgrid⟩ hfree
    refine ⟨coreIdOf a, coreIdOf_row a, coreIdOf_col a, ?_⟩
    rw [translate_of_grid self hext (hlocal hext hnot) ((inGrid_coreIdOf cfg a).mpr hgrid),
      localTarget_of_not_reserved _ (mt (reserved_iff cfg _).mp hfree)]
  case reserved =>
    rintro (⟨hext, hlow⟩ | ⟨hext, hnot, hgrid⟩) hres
    · rw [translate_of_lowRange self hext hlow, localTarget_of_reserved self ((reserved_iff cfg _).mpr hres)]
    · rw [translate_of_grid self hext (hlocal hext hnot) ((inGrid_coreIdOf cfg a).mpr hgrid),
        localTarget_of_reserved _ ((reserved_iff cfg _).mpr hres)]
  case outside =>
    intro hext hnot hglobal
    have hgrid : ¬ inGrid cfg (coreIdOf a) = true := fun h => hglobal ⟨hext, hnot, (inGrid_coreIdOf cfg a).mp h⟩
    exact translate_of_not_grid self hext (hlocal hext hnot) hgrid

/-! ## Effective addresses (R226) -/

theorem effAddr_eq_offsetBy (base off : Word) (sub : Bool) : effAddr base off sub = offsetBy base off.toNat sub := by
  cases sub with
  | false => simp [effAddr, offsetBy, BitVec.ofInt_add]
  | true => simp [effAddr, offsetBy, Int.sub_eq_add_neg, BitVec.sub_eq_add_neg, BitVec.ofInt_add, BitVec.ofInt_neg]

theorem aligned_iff (a : Word) (n : Nat) : aligned a n = true ↔ a.toNat % n = 0 := beq_iff_eq

/-! ## Bytes stored in a core's memory outside the register windows (R85) -/

/-- The state with the bytes of a word stored in the local memory of a core: what a store outside the register window
does (`testSet_other`). -/
def State.storeLocal (s : State) (c : CoreId) (off : Nat) (size : Access) (v : Word) : State :=
  s.setCore c { s.core c with mem := writeBytes (s.core c).mem off v size }

section
variable (s : State) (c d : CoreId) (off : Nat) (size : Access) (v : Word)

theorem State.core_storeLocal : (s.storeLocal c off size v).core d =
    { s.core d with mem := if d = c then writeBytes (s.core c).mem off v size else (s.core d).mem } := by
  rw [State.storeLocal, State.core_setCore]
  by_cases hd : d = c
  · subst hd; simp only [if_true]
  · simp only [if_neg hd]

theorem State.me_storeLocal : (s.storeLocal c off size v).me =
    { s.me with mem := if s.self = c then writeBytes (s.core c).mem off v size else s.me.mem } :=
  s.core_storeLocal c s.self off size v

theorem State.mem_storeLocal (k : Nat) : mapGet 0 ((s.storeLocal c off size v).core d).mem k =
    if d = c ∧ off ≤ k ∧ k < off + accessBytes size then v.extractLsb' (8 * (k - off)) 8
    else mapGet 0 (s.core d).mem k := by
  rw [State.core_storeLocal]
  by_cases hd : d = c
  · subst hd; simp only [if_true, true_and, mapGet_writeBytes]
  · simp only [hd, if_false, false_and]

/-- A byte stored outside the window reads as the word's. -/
theorem State.byteOf_storeLocal_run {j : Nat} (hj : j < accessBytes size)
    (hw : inWindow s.cfg.window (off + j) = false) :
    (s.storeLocal c off size v).byteOf (.core c (off + j)) = v.extractLsb' (8 * j) 8 := by
  have hrun : c = c ∧ off ≤ off + j ∧ off + j < off + accessBytes size := ⟨rfl, by omega, by omega⟩
  show ((s.storeLocal c off size v).core c).byte s.cfg.window (off + j) = _
  rw [ECore.byte_mem _ hw, State.mem_storeLocal, if_pos hrun, Nat.add_sub_cancel_left]

/-- Every other byte, those of the windows included, is kept. -/
theorem State.byteOf_storeLocal_of_not_run {g : Target} (hg : ¬ inRun (.core c off) (accessBytes size) g) :
    (s.storeLocal c off size v).byteOf g = s.byteOf g := by
  cases g with
  | external k => rfl
  | invalid => rfl
  | core d k =>
    show ((s.storeLocal c off size v).core d).byte s.cfg.window k = (s.core d).byte s.cfg.window k
    cases hw : inWindow s.cfg.window k with
    | true => rw [ECore.byte_window _ hw, ECore.byte_window _ hw, State.core_storeLocal]; rfl
    | false =>
      have hout : ¬(d = c ∧ off ≤ k ∧ k < off + accessBytes size) := by
        rintro ⟨rfl, hlo, hhi⟩
        exact hg ⟨k - off, by omega, by rw [Target.plus, Nat.add_sub_cancel' hlo]⟩
      rw [ECore.byte_mem _ hw, ECore.byte_mem _ hw, State.mem_storeLocal, if_neg hout]

end

/-- The effect of a store outside the register windows, before the end of its instruction: at most the bytes of `run`
changed. -/
structure Stored (s u : State) (run : Target → Prop) : Prop where
  frame : StoreFrame s u [] run
  outcome : SameOutcome s u
  notes : u.me.notes = s.me.notes

theorem stored_refl (s : State) (run : Target → Prop) : Stored s s run :=
  ⟨⟨fun _ _ => rfl, fun _ _ _ => rfl, fun _ _ _ => rfl, fun _ _ => ⟨rfl, rfl, rfl, rfl, rfl⟩, rfl, rfl, rfl, rfl⟩,
    SameOutcome.refl s, rfl⟩

theorem stored_storeLocal (s : State) (c : CoreId) (off : Nat) (size : Access) (v : Word) :
    Stored s (s.storeLocal c off size v) (inRun (.core c off) (accessBytes size)) where
  frame :=
    { words := fun k _ => by rw [State.me_storeLocal]; rfl
      bytes := fun g _ hg => s.byteOf_storeLocal_of_not_run c off size v hg
      windows := fun d _ k => by rw [State.core_storeLocal]; rfl
      others := fun d _ => by rw [State.core_storeLocal]; exact ⟨rfl, rfl, rfl, rfl, rfl⟩
      cfg := rfl
      halting := rfl
      self := rfl
      agenda := rfl }
  outcome := by constructor <;> rw [State.me_storeLocal]
  notes := by rw [State.me_storeLocal]

/-- A store followed by a change of the executing core's window. -/
theorem StoreFrame.trans_frame {s u t : State} {ks js : List Nat} {run : Target → Prop} (h : StoreFrame s u ks run)
    (g : Frame u t js) : StoreFrame s t (ks ++ js) run where
  words k hk := by
    simp only [List.mem_append, not_or] at hk
    obtain ⟨hks, hjs⟩ := hk
    rw [g.words k hjs, h.words k hks]
  bytes a ha hrun := by rw [g.bytes a (by rw [h.self, h.cfg]; exact ha), h.bytes a ha hrun]
  windows c hc k := by rw [g.others c (by rw [h.self]; exact hc), h.windows c hc]
  others c hc := by rw [g.others c (by rw [h.self]; exact hc)]; exact h.others c hc
  cfg := g.cfg.trans h.cfg
  halting := g.halting.trans h.halting
  self := g.self.trans h.self
  agenda := g.agenda.trans h.agenda

theorem Stored.ctl {s u : State} {run : Target → Prop} (h : Stored s u run) (r : Ctl) : u.ctl r = s.ctl r :=
  h.frame.words r.index List.not_mem_nil

/-- What completes from the state after a store completes, with the store, from the state before it. -/
theorem Stored.completedStore {s u t : State} {run : Target → Prop} {pcx : Word} {ks : List Nat} (h : Stored s u run)
    (hc : Completed u t pcx ks) : CompletedStore s t pcx ks run := by
  have hpc : u.pc = s.pc := h.ctl .pc
  have hloop : atLoopEnd u ↔ atLoopEnd s := by rw [atLoopEnd, atLoopEnd, hpc, h.ctl, h.ctl]
  refine ⟨⟨fun hl => ?_, fun hl => ?_⟩, hc.notes.trans (by rw [h.notes]), h.frame.trans_frame hc.frame,
    h.outcome.trans hc.outcome⟩
  · rw [← h.ctl, ← h.ctl]
    exact hc.advanced.loop (hloop.mpr hl)
  · rw [← h.ctl]
    exact hc.advanced.straight (mt hloop.mp hl)

/-- A store whose instruction also writes one register is completed. -/
theorem Stored.completed_reg {s u : State} {run : Target → Prop} (h : Stored s u run) (width : Nat) (rd : RegIdx)
    (v : Word) : CompletedStore s (complete width s.pc .next (u.setReg rd v)) (s.pc + BitVec.ofNat 32 width) [rd.toNat]
      run := by
  have hpc : u.pc = s.pc := h.ctl .pc
  rw [← hpc]
  exact h.completedStore (Machine.completed_reg u width rd v)

/-- Writing a register and ending the instruction keep the bytes stored. -/
theorem Stored.byteOf_complete_setReg {s u : State} {run : Target → Prop} (h : Stored s u run) (width : Nat) (a : Word)
    (rd : RegIdx) (v : Word) {g : Target} (hg : ownWindow s.cfg.window s.self g = false) :
    (complete width a .next (u.setReg rd v)).byteOf g = u.byteOf g := by
  rw [← h.frame.cfg, ← h.frame.self] at hg
  exact ((frame_setReg u rd v).trans (frame_complete width a .next _)).bytes g hg

/-! ## The test-and-set (R102, R104) -/

section
variable {s : State} {self c : CoreId} {a : Word} {off : Nat} (v : Word)

theorem testSet_misaligned (ha : ¬ aligned a 4 = true) : testSet s self a v = .misaligned a := if_neg ha

/-- On a word of another core outside its window: the old word, and `v` stored where it was zero. -/
theorem testSet_other (ha : aligned a 4 = true) (ht : translate s.cfg self a = .core c off) (hc : c ≠ self)
    (hw : inWindow s.cfg.window off = false) : testSet s self a v =
      .ok ((s.core c).load s.cfg.window off .b4,
        if (s.core c).load s.cfg.window off .b4 = 0 then s.storeLocal c off .b4 v else s) := by
  simp only [testSet, ha, ht, hc, hw, if_true, if_false, Bool.false_eq_true, State.storeLocal]

theorem testSet_window (ha : aligned a 4 = true) (ht : translate s.cfg self a = .core c off) (hc : c ≠ self)
    (hw : inWindow s.cfg.window off = true) : testSet s self a v = .refused .testSetInWindow := by
  simp only [testSet, ha, ht, hc, hw, if_true, if_false]

/-- On anything but another core's local memory (R104). -/
theorem testSet_not_other (ha : aligned a 4 = true)
    (hown : ∀ c off, translate s.cfg self a = .core c off → c = self) : testSet s self a v = .memoryFault a true s := by
  cases ht : translate s.cfg self a with
  | external off => simp only [testSet, ha, ht, if_true]
  | invalid => simp only [testSet, ha, ht, if_true]
  | core c off => simp only [testSet, ha, ht, hown c off ht, if_true]

end

/-! ## TESTSET (R236) -/

theorem exec_testset (rd rn rm : RegIdx) (sub : Bool) (s : State) : exec (.testset rd rn rm sub) s =
    runInstr 4 s ((testSet s s.self (indexAddr s rn rm sub) (s.reg rd)).bind fun p => .ok (.next, p.2.setReg rd p.1)) :=
  rfl

theorem exec_testset_of_ok {s u : State} {rd rn rm : RegIdx} {sub : Bool} {old : Word}
    (h : testSet s s.self (indexAddr s rn rm sub) (s.reg rd) = .ok (old, u)) :
    exec (.testset rd rn rm sub) s = .next (complete 4 s.pc .next (u.setReg rd old)) := by
  rw [exec_testset, h, Res.ok_bind, runInstr_ok]

/-- TESTSET on a word of another core outside its window: `rd` and at most the word change. -/
theorem exec_testset_other {s : State} {rd rn rm : RegIdx} {sub : Bool} {c : CoreId} {off : Nat}
    (hk : configOk s.cfg = true) (ha : aligned (indexAddr s rn rm sub) 4 = true)
    (ht : translate s.cfg s.self (indexAddr s rn rm sub) = .core c off) (hc : c ≠ s.self)
    (hw : inWindow s.cfg.window off = false) : Next (exec (.testset rd rn rm sub) s) fun t =>
      (∀ j, j < 4 → (t.reg rd).extractLsb' (8 * j) 8 = s.byteOf (.core c (off + j))) ∧
      (t.reg rd = 0 → ∀ j, j < 4 → t.byteOf (.core c (off + j)) = (s.reg rd).extractLsb' (8 * j) 8) ∧
      (t.reg rd ≠ 0 → ∀ j, j < 4 → t.byteOf (.core c (off + j)) = s.byteOf (.core c (off + j))) ∧
      CompletedStore s t (s.pc + 4) [rd.toNat] (inRun (.core c off) 4) := by
  have hwin := configOk_window hk
  have hoff : off % accessBytes .b4 = 0 := (aligned_core ht (by decide) ha).1
  refine ⟨_, exec_testset_of_ok (testSet_other _ ha ht hc hw), ?_⟩
  simp only [reg_complete, State.reg_setReg_same]
  have hload : ∀ j, j < 4 →
      ((s.core c).load s.cfg.window off .b4).extractLsb' (8 * j) 8 = s.byteOf (.core c (off + j)) :=
    fun j hj => ((s.core c).load_byte hwin .b4 hoff hj).trans (if_pos hj)
  generalize (s.core c).load s.cfg.window off .b4 = old at hload ⊢
  have hother : ∀ k, ownWindow s.cfg.window s.self (.core c k) = false := fun k => by simp [ownWindow, hc]
  by_cases hold : old = 0
  · rw [if_pos hold]
    have hstored := stored_storeLocal s c off .b4 (s.reg rd)
    refine ⟨hload, fun _ j hj => ?_, fun hne => absurd hold hne, hstored.completed_reg 4 rd old⟩
    have hplain : inWindow s.cfg.window (off + j) = false := (inWindow_add hwin .b4 hoff hj).trans hw
    rw [hstored.byteOf_complete_setReg 4 s.pc rd old (hother _), s.byteOf_storeLocal_run c off .b4 _ hj hplain]
  · rw [if_neg hold]
    have hstored := stored_refl s (inRun (.core c off) 4)
    exact ⟨hload, fun hz => absurd hz hold, fun _ _ _ => hstored.byteOf_complete_setReg 4 s.pc rd old (hother _),
      hstored.completed_reg 4 rd old⟩

/-- Settles O38: the cases of `testSet`, each run to the end of its instruction. -/
theorem testsetCompletes : Obligations.TestsetCompletes := by
  intro s rd rn rm sub hk
  refine ⟨effAddr_eq_offsetBy _ _ sub, fun hmis => ?misaligned, fun hzero => ?aligned⟩
  case misaligned =>
    rw [exec_testset, testSet_misaligned _ (mt (aligned_iff _ 4).mp hmis), Res.misaligned_bind, runInstr_misaligned]
    exact ⟨_, rfl, abandoned_misaligned s 4⟩
  case aligned =>
    have ha := (aligned_iff _ 4).mpr hzero
    refine ⟨fun c off ht hc => ⟨exec_testset_other hk ha ht hc, fun hw => ?window⟩, fun hown => ?fault⟩
    case window => rw [exec_testset, testSet_window _ ha ht hc hw, Res.refused_bind, runInstr_refused]
    case fault =>
      rw [exec_testset, testSet_not_other _ ha hown, Res.memoryFault_bind, runInstr_memoryFault]
      exact ⟨_, rfl, halted_halt s _⟩

end Sys2Proof.Machine
end

section
/-! Family 40_integer_alu.md: results and flags of the integer instructions (R160 to R174). -/

namespace Sys2Proof.Machine

/-! ## Operands and shift amounts (R125, R168) -/

theorem shiftAmount_ruleAlu (b : Word) : shiftAmount ruleAlu b = b.toNat % 32 := rfl

theorem shiftAmount_zextImm (imm : BitVec 5) : shiftAmount ruleAlu (zextImm imm) = imm.toNat := by
  have himm := imm.isLt
  rw [shiftAmount_ruleAlu, zextImm, BitVec.toNat_setWidth]
  omega

/-! ## Results as arithmetic (R161, R163, R168 to R173) -/

section
variable (alu : AluConfig) (a b : Word)

theorem aluResult_add : aluResult alu .add a b = BitVec.ofNat 32 (a.toNat + b.toNat) := BitVec.add_def a b

/-- The difference of two words is the first with the second as an offset taken off it (`effAddr_eq_offsetBy`). -/
theorem aluResult_sub : aluResult alu .sub a b = BitVec.ofInt 32 ((a.toNat : Int) - b.toNat) :=
  effAddr_eq_offsetBy a b true

theorem aluResult_lsl : aluResult alu .lsl a b = BitVec.ofNat 32 (a.toNat * 2 ^ shiftAmount alu b) := by
  apply BitVec.eq_of_toNat_eq
  rw [aluResult, BitVec.toNat_shiftLeft, Nat.shiftLeft_eq, BitVec.toNat_ofNat]

theorem aluResult_lsr : aluResult alu .lsr a b = BitVec.ofNat 32 (a.toNat / 2 ^ shiftAmount alu b) := by
  rw [aluResult, ← Nat.shiftRight_eq_div_pow, ← BitVec.toNat_ushiftRight, BitVec.ofNat_toNat, BitVec.setWidth_eq]

theorem aluResult_asr : aluResult alu .asr a b = BitVec.ofInt 32 (a.toInt / 2 ^ shiftAmount alu b) := by
  rw [aluResult, BitVec.sshiftRight, Int.shiftRight_eq_div_pow, Nat.cast_pow, Nat.cast_ofNat]

end

/-! ## Flags with the rule's polarity (R160) -/

theorem subCarry_ruleAlu (a b : Word) : subCarry ruleAlu a b = decide (b.toNat ≤ a.toNat) := Bool.xor_false _

theorem logicFlags_ruleAlu (st r : Word) : logicFlags ruleAlu st r = intFlags st r false false := rfl

theorem intFlags_avs (st r : Word) (c v : Bool) : (intFlags st r c v).getLsbD bitAVS = st.getLsbD bitAVS :=
  intFlags_bit st r c v bitAVS

/-! ## Integer instructions run to their end (R160) -/

section
variable {s : State} (width : Nat) (rd : RegIdx)

theorem addDone_aluWrite (a b : Word) : AddDone s (runNext width s (aluWrite s .add rd a b)) width rd a b := by
  rw [AddDone, ← aluResult_add s.cfg.alu]
  exact intDone_of fun k => arithFlags_bit _ _ _ _ k

theorem subDone_aluWrite (halu : s.cfg.alu = ruleAlu) (a b : Word) :
    SubDone s (runNext width s (aluWrite s .sub rd a b)) width rd a b := by
  rw [SubDone, ← aluResult_sub s.cfg.alu, ← subCarry_ruleAlu, ← halu]
  exact intDone_of fun k => arithFlags_bit _ _ _ _ k

/-- A result in a register with the flags of a logic instruction: AC and AV are cleared and AVS is not touched. -/
theorem logicDone_of (halu : s.cfg.alu = ruleAlu) (r : Word) : LogicDone s
    (runNext width s ((s.setReg rd r).setCtl .status (logicFlags s.cfg.alu (s.ctl .status) r))) width rd r := by
  rw [halu, logicFlags_ruleAlu]
  refine intDone_of fun k => ?_
  by_cases hk : k = bitAVS
  · rw [if_pos hk, hk, intFlags_avs, State.flag]
  · rw [if_neg hk]

theorem logicDone_aluWrite (halu : s.cfg.alu = ruleAlu) {op : AluOp} (hadd : op ≠ .add) (hsub : op ≠ .sub)
    (a b : Word) : LogicDone s (runNext width s (aluWrite s op rd a b)) width rd (aluResult s.cfg.alu op a b) := by
  have hstatus : aluStatus s.cfg.alu op (s.ctl .status) a b =
      logicFlags s.cfg.alu (s.ctl .status) (aluResult s.cfg.alu op a b) := by
    cases op with
    | add => exact absurd rfl hadd
    | sub => exact absurd rfl hsub
    | _ => rfl
  rw [aluWrite, hstatus]
  exact logicDone_of width rd halu _

theorem bitwiseDone_aluWrite (halu : s.cfg.alu = ruleAlu) (a b : Word) :
    LogicDone s (runNext width s (aluWrite s .and rd a b)) width rd (a &&& b) ∧
    LogicDone s (runNext width s (aluWrite s .orr rd a b)) width rd (a ||| b) ∧
    LogicDone s (runNext width s (aluWrite s .eor rd a b)) width rd (a ^^^ b) :=
  ⟨logicDone_aluWrite width rd halu (op := .and) (by decide) (by decide) a b,
    logicDone_aluWrite width rd halu (op := .orr) (by decide) (by decide) a b,
    logicDone_aluWrite width rd halu (op := .eor) (by decide) (by decide) a b⟩

/-- BITR (R174). -/
theorem logicDone_bitrWrite (halu : s.cfg.alu = ruleAlu) (a : Word) :
    ∃ r : Word, (∀ i, i < 32 → r.getLsbD i = a.getLsbD (31 - i)) ∧
      LogicDone s (runNext width s (bitrWrite s rd a)) width rd r :=
  ⟨bitReverse a, fun _ hi => bitReverse_bit a hi, logicDone_of width rd halu _⟩

/-- The three shifts of a word by `n`, the amount that the second operand gives. -/
theorem shiftsDone_aluWrite (halu : s.cfg.alu = ruleAlu) (a : Word) {b : Word} {n : Nat}
    (hn : shiftAmount ruleAlu b = n) :
    LogicDone s (runNext width s (aluWrite s .lsl rd a b)) width rd (BitVec.ofNat 32 (a.toNat * 2 ^ n)) ∧
    LogicDone s (runNext width s (aluWrite s .lsr rd a b)) width rd (BitVec.ofNat 32 (a.toNat / 2 ^ n)) ∧
    LogicDone s (runNext width s (aluWrite s .asr rd a b)) width rd (BitVec.ofInt 32 (a.toInt / 2 ^ n)) := by
  rw [← halu] at hn
  rw [← hn, ← aluResult_lsl, ← aluResult_lsr, ← aluResult_asr]
  exact ⟨logicDone_aluWrite width rd halu (by decide) (by decide) a b,
    logicDone_aluWrite width rd halu (by decide) (by decide) a b,
    logicDone_aluWrite width rd halu (by decide) (by decide) a b⟩

end

/-! ## The instructions, each form its operation on its operands -/

/-- Settles O23: the result and the carry are those of the natural numbers, an immediate its sign-extended word. -/
theorem addCompletes : Obligations.AddCompletes := fun _ =>
  ⟨fun rd _ _ => addDone_aluWrite 2 (lowReg rd) _ _, fun rd _ _ => addDone_aluWrite 4 rd _ _,
    fun rd _ imm => addDone_aluWrite 2 (lowReg rd) _ (sextImm imm),
    fun rd _ imm => addDone_aluWrite 4 rd _ (sextImm imm)⟩

/-- Settles O24: as O23, with the carry that the rule's polarity gives to "no borrow". -/
theorem subCompletes : Obligations.SubCompletes := fun _ halu =>
  ⟨fun rd _ _ => subDone_aluWrite 2 (lowReg rd) halu _ _, fun rd _ _ => subDone_aluWrite 4 rd halu _ _,
    fun rd _ imm => subDone_aluWrite 2 (lowReg rd) halu _ (sextImm imm),
    fun rd _ imm => subDone_aluWrite 4 rd halu _ (sextImm imm)⟩

/-- Settles O25: AND, ORR and EOR are the operations on words, and BITR is read bit by bit. -/
theorem logicCompletes : Obligations.LogicCompletes := fun _ halu =>
  ⟨fun rd _ _ => bitwiseDone_aluWrite 2 (lowReg rd) halu _ _, fun rd _ _ => bitwiseDone_aluWrite 4 rd halu _ _,
    fun rd _ => logicDone_bitrWrite 2 (lowReg rd) halu _, fun rd _ => logicDone_bitrWrite 4 rd halu _⟩

/-- Settles O26: a register form shifts by the register's low five bits, an immediate form by the immediate. -/
theorem shiftsComplete : Obligations.ShiftsComplete := fun _ halu =>
  ⟨fun rd _ _ => shiftsDone_aluWrite 2 (lowReg rd) halu _ (shiftAmount_ruleAlu _),
    fun rd _ _ => shiftsDone_aluWrite 4 rd halu _ (shiftAmount_ruleAlu _),
    fun rd _ imm => shiftsDone_aluWrite 2 (lowReg rd) halu _ (shiftAmount_zextImm imm),
    fun rd _ imm => shiftsDone_aluWrite 4 rd halu _ (shiftAmount_zextImm imm)⟩

end Sys2Proof.Machine
end

section
/-! Family 41_move.md: MOV immediate, MOVT and MOV<cond> (R200 to R202), and MOVFS (R203, R205). -/

namespace Sys2Proof.Machine

/-! ## The words moved (R200, R201) -/

theorem zextImm_toNat {n : Nat} (hn : n ≤ 32) (imm : BitVec n) : (zextImm imm).toNat = imm.toNat :=
  BitVec.toNat_setWidth_of_le hn

theorem lowHalfMask_toNat (a : Word) : (a &&& 0x0000FFFF#32).toNat = a.toNat % 2 ^ 16 := by
  rw [BitVec.toNat_and]
  exact Nat.and_two_pow_sub_one_eq_mod a.toNat 16

/-- MOVT's result: the two halves do not overlap, so their union is their sum. -/
theorem movt_toNat (imm : BitVec 16) (a : Word) : ((zextImm imm <<< 16) ||| (a &&& 0x0000FFFF#32)).toNat =
    imm.toNat * 2 ^ 16 + a.toNat % 2 ^ 16 := by
  have himm := imm.isLt
  have hlow : a.toNat % 2 ^ 16 < 2 ^ 16 := Nat.mod_lt _ (by decide)
  have hhigh : (zextImm imm <<< 16).toNat = imm.toNat <<< 16 := by
    rw [BitVec.toNat_shiftLeft, zextImm_toNat (by decide), Nat.shiftLeft_eq]
    omega
  rw [BitVec.toNat_or, hhigh, lowHalfMask_toNat, ← Nat.shiftLeft_add_eq_or_of_lt hlow, Nat.shiftLeft_eq]

/-! ## Instructions that write one register, or nothing -/

section
variable (s : State) (width : Nat) (rd : RegIdx)

/-- An instruction that writes nothing is completed. -/
theorem completed_refl : Completed s (complete width s.pc .next s) (s.pc + BitVec.ofNat 32 width) [] :=
  completed_next width (Frame.refl s []) (SameOutcome.refl s) rfl fun _ _ => List.not_mem_nil

theorem runNext_setReg (v : Word) : Next (runNext width s (s.setReg rd v)) fun t =>
    t.reg rd = v ∧ Completed s t (s.pc + BitVec.ofNat 32 width) [rd.toNat] :=
  ⟨_, runInstr_ok _ _ _ _, (reg_complete _ _ _ _ rd).trans (s.reg_setReg_same rd v), completed_reg s width rd v⟩

/-- A move whose word is known as a number. -/
theorem runNext_setReg_toNat {v : Word} {n : Nat} (hv : v.toNat = n) : Next (runNext width s (s.setReg rd v)) fun t =>
    (t.reg rd).toNat = n ∧ Completed s t (s.pc + BitVec.ofNat 32 width) [rd.toNat] := by
  obtain ⟨t, ht, hreg, hdone⟩ := runNext_setReg s width rd v
  exact ⟨t, ht, hreg ▸ hv, hdone⟩

/-- MOV<cond> (R202). -/
theorem movIf_completes (cond : Cond) (rn : RegIdx) : Next (movIf width s cond rd rn) fun t =>
    if condHolds s.cfg (s.ctl .status) cond then
      t.reg rd = s.reg rn ∧ Completed s t (s.pc + BitVec.ofNat 32 width) [rd.toNat]
    else Completed s t (s.pc + BitVec.ofNat 32 width) [] := by
  by_cases hcond : condHolds s.cfg (s.ctl .status) cond = true
  · simp only [movIf, if_pos hcond]
    exact runNext_setReg s width rd (s.reg rn)
  · simp only [movIf, if_neg hcond]
    exact ⟨_, runInstr_ok _ _ _ _, completed_refl s width⟩

end

/-- Settles O29: an immediate is its number, MOVT's word the sum of its halves, and MOV<cond> splits on its condition;
that condition 15 fails the check is the definition of `Instr.check`. -/
theorem movesComplete : Obligations.MovesComplete := fun s =>
  ⟨fun rd imm => runNext_setReg_toNat s 2 (lowReg rd) (zextImm_toNat (by decide) imm),
    fun rd imm => runNext_setReg_toNat s 4 rd (zextImm_toNat (by decide) imm),
    fun rd imm => runNext_setReg_toNat s 4 rd (movt_toNat imm (s.reg rd)),
    fun cond rd rn _ => movIf_completes s 2 (lowReg rd) cond (lowReg rn),
    fun cond rd rn _ => movIf_completes s 4 rd cond rn, fun _ _ => rfl, fun _ _ => rfl⟩

/-! ## Words of the own window by their address (R30, R72, R203) -/

theorem groupIndex_lt (group : BitVec 2) (sn : BitVec 6) : groupIndex group.toNat sn.toNat < 512 := by
  have hgroup := group.isLt
  have hsn := sn.isLt
  rw [groupIndex]
  omega

theorem ctlAddr_eq (w : RegWindow) (group : BitVec 2) (sn : BitVec 6) :
    ctlAddr w group sn = BitVec.ofNat 32 (w.base + 4 * groupIndex group.toNat sn.toNat) := by
  rw [ctlAddr, groupIndex]
  congr 1
  omega

/-- External memory lies above the addresses of the own range (R71). -/
theorem configOk_extBase {cfg : Config} (h : configOk cfg = true) : localSize ≤ cfg.extBase := by
  simp only [configOk, externalApart, Bool.and_eq_true, decide_eq_true_eq] at h
  omega

section
variable {w : RegWindow} {k : Nat}

theorem windowWord_lt (hw : windowOk w = true) (hk : k < 512) : w.base + 4 * k < 2 ^ 20 := by
  obtain ⟨-, -, hroom, hend⟩ := (windowOk_iff w).mp hw
  rw [localSize] at hend
  omega

theorem inWindow_windowWord (hw : windowOk w = true) (hk : k < 512) : inWindow w (w.base + 4 * k) = true := by
  obtain ⟨-, -, hroom, -⟩ := (windowOk_iff w).mp hw
  exact (inWindow_iff w _).mpr ⟨by omega, by omega⟩

theorem windowIndex_windowWord (w : RegWindow) (k : Nat) : windowIndex w (w.base + 4 * k) = k := by
  rw [windowIndex]
  omega

theorem windowByte_windowWord (w : RegWindow) (k : Nat) : windowByte w (w.base + 4 * k) = 0 := by
  rw [windowByte]
  omega

/-- A whole word of the window is read as it is held. -/
theorem ECore.load_windowWord (x : ECore) (hw : windowOk w = true) (hk : k < 512) :
    x.load w (w.base + 4 * k) .b4 = x.word k := by
  have hmask : fieldMask 0 (8 * accessBytes .b4) = BitVec.allOnes 32 := rfl
  rw [ECore.load, if_pos (inWindow_windowWord hw hk), windowIndex_windowWord, windowByte_windowWord, hmask,
    Nat.mul_zero, BitVec.ushiftRight_zero, BitVec.and_allOnes]

theorem windowWord_toNat (hw : windowOk w = true) (hk : k < 512) :
    (BitVec.ofNat 32 (w.base + 4 * k)).toNat = w.base + 4 * k := by
  have hlow := windowWord_lt hw hk
  exact Nat.mod_eq_of_lt (by omega)

theorem aligned_windowWord (hw : windowOk w = true) (hk : k < 512) :
    aligned (BitVec.ofNat 32 (w.base + 4 * k)) 4 = true := by
  obtain ⟨hbase, -⟩ := (windowOk_iff w).mp hw
  rw [aligned_iff, windowWord_toNat hw hk]
  omega

end

section
variable {k : Nat}

/-- The address of a word of the window names it in the issuing core, unless it is reserved (R72, R74). -/
theorem translate_windowWord {cfg : Config} (hc : configOk cfg = true) (self : CoreId) (hk : k < 512) :
    translate cfg self (BitVec.ofNat 32 (cfg.window.base + 4 * k)) = localTarget cfg self (cfg.window.base + 4 * k) := by
  have hw := configOk_window hc
  have hlow : cfg.window.base + 4 * k < 2 ^ 20 := windowWord_lt hw hk
  have hext : localSize ≤ cfg.extBase := configOk_extBase hc
  rw [localSize] at hext
  have ha := windowWord_toNat hw hk
  rw [translate_of_lowRange self (by omega) (by omega), ha, Nat.mod_eq_of_lt hlow]

variable {s : State}

theorem memRead_windowWord (hc : configOk s.cfg = true) (hk : k < 512)
    (hfree : reserved s.cfg (s.cfg.window.base + 4 * k) = false) :
    memRead s s.self (BitVec.ofNat 32 (s.cfg.window.base + 4 * k)) .b4 = .ok (s.me.word k) := by
  have hw := configOk_window hc
  have ht := (translate_windowWord hc s.self hk).trans (localTarget_of_not_reserved s.self (Bool.not_eq_true _ ▸ hfree))
  rw [memRead_core s (aligned_windowWord hw hk) ht, ECore.load_windowWord _ hw hk, State.me]

theorem memRead_windowWord_reserved (hc : configOk s.cfg = true) (hk : k < 512)
    (hres : reserved s.cfg (s.cfg.window.base + 4 * k) = true) :
    memRead s s.self (BitVec.ofNat 32 (s.cfg.window.base + 4 * k)) .b4 =
      .memoryFault (BitVec.ofNat 32 (s.cfg.window.base + 4 * k)) false s :=
  memRead_invalid s (aligned_windowWord (configOk_window hc) hk)
    ((translate_windowWord hc s.self hk).trans (localTarget_of_reserved s.self hres))

end

/-! ## MOVFS (R205) -/

theorem exec_movfs16 (rd : RegLow) (sn : BitVec 3) (s : State) :
    exec (.movfs16 rd sn) s = moveFromCtl 2 s 0 (lowReg sn) (lowReg rd) := rfl

theorem exec_movfs32 (rd : RegIdx) (sn : BitVec 6) (group : BitVec 2) (s : State) :
    exec (.movfs32 rd sn group) s = moveFromCtl 4 s group sn rd := rfl

theorem moveFromCtl_eq (width : Nat) (s : State) (group : BitVec 2) (sn : BitVec 6) (rd : RegIdx) :
    moveFromCtl width s group sn rd = runInstr width s
      ((memRead s s.self (BitVec.ofNat 32 (s.cfg.window.base + 4 * groupIndex group.toNat sn.toNat)) .b4).bind
        fun v => .ok (.next, s.setReg rd v)) := by
  rw [moveFromCtl, ctlAddr_eq]

/-- Settles O31: both forms are one read of a word of the own window, by its address. -/
theorem movfsCompletes : Obligations.MovfsCompletes := by
  intro s i width group sn rd hc hform k
  have hexec : exec i s = moveFromCtl width s group sn rd := by
    rcases hform with ⟨rfl, rfl⟩ | ⟨rl, sl, rfl, rfl, rfl, rfl, rfl⟩
    · exact exec_movfs32 rd sn group s
    · exact exec_movfs16 rl sl s
  have hword : groupIndex group.toNat sn.toNat = k := rfl
  have hk : k < 512 := groupIndex_lt group sn
  rw [hexec, moveFromCtl_eq, hword]
  refine ⟨fun hfree => ?read, fun hres => ?fault⟩
  case read =>
    rw [memRead_windowWord hc hk hfree, Res.ok_bind]
    exact runNext_setReg s width rd (s.me.word k)
  case fault =>
    rw [memRead_windowWord_reserved hc hk hres, Res.memoryFault_bind, runInstr_memoryFault]
    exact ⟨_, rfl, halted_halt s _⟩

end Sys2Proof.Machine
end

section
/-! Family 42_load_store.md: the seven load forms (R220 to R227). -/

namespace Sys2Proof.Machine

/-! ## The addresses of the forms (R226) -/

theorem sizeBytes_eq (size : Size) : sizeBytes size = 2 ^ sizeLog size := by cases size <;> rfl

theorem sizeLog_le (size : Size) : sizeLog size ≤ 3 := by cases size <;> decide

/-- An immediate of at most 29 bits loses nothing when it is scaled. -/
theorem scaledDisp_toNat {n : Nat} (hn : n ≤ 29) (imm : BitVec n) (size : Size) :
    (scaledDisp imm size).toNat = imm.toNat * sizeBytes size := by
  have hfit : imm.toNat * 2 ^ sizeLog size < 2 ^ 32 := calc
    imm.toNat * 2 ^ sizeLog size ≤ imm.toNat * 2 ^ 3 :=
      Nat.mul_le_mul_left _ (Nat.pow_le_pow_right (by decide) (sizeLog_le size))
    _ < 2 ^ n * 2 ^ 3 := Nat.mul_lt_mul_of_pos_right imm.isLt (by decide)
    _ ≤ 2 ^ 29 * 2 ^ 3 := Nat.mul_le_mul_right _ (Nat.pow_le_pow_right (by decide) hn)
  rw [scaledDisp, BitVec.toNat_shiftLeft, zextImm_toNat (by omega), Nat.shiftLeft_eq, sizeBytes_eq,
    Nat.mod_eq_of_lt hfit]

theorem indexAddr_eq_offsetBy (s : State) (rn rm : RegIdx) (sub : Bool) :
    indexAddr s rn rm sub = offsetBy (s.reg rn) (s.reg rm).toNat sub := effAddr_eq_offsetBy _ _ sub

theorem dispAddr_eq_offsetBy {n : Nat} (hn : n ≤ 29) (s : State) (rn : RegIdx) (imm : BitVec n) (size : Size)
    (sub : Bool) : dispAddr s rn imm size sub = offsetBy (s.reg rn) (imm.toNat * sizeBytes size) sub := by
  rw [dispAddr, effAddr_eq_offsetBy, scaledDisp_toNat hn]

theorem addressed_of_loadForm {s : State} {i : Instr} {x : Transfer} (h : loadForm s i = some x) :
    Addressed s i x := by
  cases i with
  | ldrIndex16 rd rn rm size => cases h; exact ⟨_, _, _, _, rfl, indexAddr_eq_offsetBy s _ _ false, rfl⟩
  | ldrIndex32 rd rn rm size sub => cases h; exact ⟨_, _, _, _, rfl, indexAddr_eq_offsetBy s rn rm sub, rfl⟩
  | ldrDisp16 rd rn imm size =>
    cases h
    exact ⟨_, _, _, _, rfl, dispAddr_eq_offsetBy (by decide) s _ imm size false, rfl⟩
  | ldrDisp32 rd rn imm size sub =>
    cases h
    exact ⟨_, _, _, _, rfl, dispAddr_eq_offsetBy (by decide) s rn imm size sub, rfl⟩
  | ldrPost16 rd rn rm size =>
    cases h
    exact ⟨_, _, _, _, rfl, rfl, congrArg (fun v => some (lowReg rn, v)) (indexAddr_eq_offsetBy s _ _ false)⟩
  | ldrPost32 rd rn rm size sub =>
    cases h
    exact ⟨_, _, _, _, rfl, rfl, congrArg (fun v => some (rn, v)) (indexAddr_eq_offsetBy s rn rm sub)⟩
  | ldrDispPost rd rn imm size sub =>
    cases h
    exact ⟨_, _, _, _, rfl, rfl,
      congrArg (fun v => some (rn, v)) (dispAddr_eq_offsetBy (by decide) s rn imm size sub)⟩
  | _ => cases h

/-! ## The doubleword's even register (K2 of R140) -/

theorem even_of_checkPair {n : Nat} {rd : BitVec n} {size : Size} (h : checkPair rd size = true)
    (hz : size = .double) : rd.toNat % 2 = 0 := by
  subst hz
  have hbit : rd.getLsbD 0 = false := by simpa [checkPair] using h
  rw [BitVec.getLsbD, Nat.testBit_zero] at hbit
  have hodd := of_decide_eq_false hbit
  omega

theorem lowReg_toNat (r : RegLow) : (lowReg r).toNat = r.toNat := BitVec.toNat_setWidth_of_le (by decide)

theorem even_lowReg {rd : RegLow} {size : Size} (h : checkPair rd size = true) (hz : size = .double) :
    (lowReg rd).toNat % 2 = 0 := lowReg_toNat rd ▸ even_of_checkPair h hz

theorem even_of_loadForm {s : State} {i : Instr} {x : Transfer} (h : loadForm s i = some x) (hi : i.WellFormed) :
    x.size = .double → x.rd.toNat % 2 = 0 := by
  cases i with
  | ldrIndex16 rd rn rm size => cases h; exact even_lowReg hi
  | ldrDisp16 rd rn imm size => cases h; exact even_lowReg hi
  | ldrPost16 rd rn rm size => cases h; exact even_lowReg hi
  | ldrIndex32 rd rn rm size sub => cases h; exact even_of_checkPair hi
  | ldrDisp32 rd rn imm size sub => cases h; exact even_of_checkPair hi
  | ldrPost32 rd rn rm size sub => cases h; exact even_of_checkPair hi
  | ldrDispPost rd rn imm size sub => cases h; exact even_of_checkPair hi
  | _ => cases h

theorem pairReg_ne (r : RegIdx) : pairReg r ≠ r := by
  rw [pairReg]
  bv_omega

/-! ## Writing registers and nothing else -/

/-- `t` is `s` with some registers written, those of the words `ks` of the window at most. -/
structure Registers (s t : State) (ks : List Nat) : Prop where
  frame : Frame s t ks
  outcome : SameOutcome s t
  notes : t.me.notes = s.me.notes
  bound : ∀ k ∈ ks, k < 64

theorem Registers.refl (s : State) : Registers s s [] :=
  ⟨Frame.refl s [], SameOutcome.refl s, rfl, fun _ hk => absurd hk List.not_mem_nil⟩

theorem registers_setReg (s : State) (i : RegIdx) (v : Word) : Registers s (s.setReg i v) [i.toNat] :=
  ⟨frame_setReg s i v, outcome_setReg s i v, by rw [State.me_setReg, ECore.setWord_notes],
    fun _ hk => List.mem_singleton.mp hk ▸ i.isLt⟩

theorem Registers.trans {s t u : State} {ks js : List Nat} (h : Registers s t ks) (g : Registers t u js) :
    Registers s u (ks ++ js) :=
  ⟨h.frame.trans g.frame, h.outcome.trans g.outcome, g.notes.trans h.notes,
    fun k hk => (List.mem_append.mp hk).elim (h.bound k) (g.bound k)⟩

theorem Registers.completed {s t : State} {ks : List Nat} (h : Registers s t ks) (width : Nat) :
    Completed s (complete width s.pc .next t) (s.pc + BitVec.ofNat 32 width) ks :=
  completed_next width h.frame h.outcome h.notes (loop_notin fun k hk => .inl (h.bound k hk))

/-- A byte that lies in no word the register holds is kept by a write of it. -/
theorem State.byteOf_setReg (s : State) (i : RegIdx) (v : Word) {g : Target}
    (h : ∀ off, g = .core s.self off → inWindow s.cfg.window off = true →
      windowIndex s.cfg.window off ≠ i.toNat) :
    (s.setReg i v).byteOf g = s.byteOf g := by
  cases hown : ownWindow s.cfg.window s.self g with
  | false => exact (frame_setReg s i v).bytes g hown
  | true =>
    cases g with
    | external off => cases hown
    | invalid => cases hown
    | core c off =>
      rw [ownWindow, Bool.and_eq_true, beq_iff_eq] at hown
      obtain ⟨rfl, hin⟩ := hown
      show (s.setReg i v).me.byte s.cfg.window off = s.me.byte s.cfg.window off
      rw [ECore.byte_window _ hin, ECore.byte_window _ hin, State.me_setReg, ECore.word_setWord, if_neg (h off rfl hin)]

/-! ## Reads as bytes (R84, R86) and the second word of a doubleword (R83) -/

theorem memRead_bytes {s : State} (hc : configOk s.cfg = true) {c : CoreId} {a : Word} {size : Access}
    (ha : aligned a (accessBytes size) = true) (ht : translate s.cfg c a ≠ .invalid) :
    ∃ v, memRead s c a size = .ok v ∧ ∀ j, j < 4 → v.extractLsb' (8 * j) 8 =
      if j < accessBytes size then s.byteOf ((translate s.cfg c a).plus j) else 0 := by
  cases hg : translate s.cfg c a with
  | invalid => exact absurd hg ht
  | external off => exact ⟨_, memRead_external hc ha hg, fun _ hj => readBytes_byte s.ext off size hj⟩
  | core d off =>
    have hdvd : accessBytes size ∣ 2 ^ 20 := by cases size <;> decide
    exact ⟨_, memRead_core s ha hg, fun _ hj =>
      (s.core d).load_byte (configOk_window hc) size (aligned_core hg hdvd ha).1 hj⟩

theorem memRead_word {s : State} (hc : configOk s.cfg = true) {c : CoreId} {a : Word} (ha : aligned a 4 = true)
    (ht : translate s.cfg c a ≠ .invalid) : ∃ v, memRead s c a .b4 = .ok v ∧
      ∀ j, j < 4 → v.extractLsb' (8 * j) 8 = s.byteOf ((translate s.cfg c a).plus j) := by
  obtain ⟨v, hread, hbytes⟩ := memRead_bytes hc (size := .b4) ha ht
  exact ⟨v, hread, fun j hj => (hbytes j hj).trans (if_pos hj)⟩

/-- The reserved sub-ranges begin and end at multiples of 8 (R74). -/
theorem configOk_reserved {cfg : Config} (h : configOk cfg = true) : cfg.reservedA.lo % 8 = 0 ∧
    cfg.reservedA.hi % 8 = 0 ∧ cfg.reservedB.lo % 8 = 0 ∧ cfg.reservedB.hi % 8 = 0 := by
  simp only [configOk, rangeOk, Bool.and_eq_true, beq_iff_eq] at h
  omega

theorem Target.plus_plus (g : Target) (m n : Nat) : (g.plus m).plus n = g.plus (m + n) := by
  cases g with
  | external off => exact congrArg Target.external (Nat.add_assoc off m n)
  | core c off => exact congrArg (Target.core c) (Nat.add_assoc off m n)
  | invalid => rfl

theorem Target.plus_ne_invalid {g : Target} (h : g ≠ .invalid) (n : Nat) : g.plus n ≠ .invalid := by
  cases g with
  | invalid => exact absurd rfl h
  | external off => exact fun he => nomatch he
  | core c off => exact fun he => nomatch he

/-- Both words of an aligned doubleword are reserved, or neither. -/
theorem localTarget_add_four {cfg : Config} (hc : configOk cfg = true) (c : CoreId) {off : Nat} (ho : off % 8 = 0) :
    localTarget cfg c (off + 4) = (localTarget cfg c off).plus 4 := by
  obtain ⟨hAlo, hAhi, hBlo, hBhi⟩ := configOk_reserved hc
  have hres : reserved cfg (off + 4) = reserved cfg off := by
    rw [Bool.eq_iff_iff, reserved_iff, reserved_iff]
    omega
  rw [localTarget, localTarget, hres]
  split <;> rfl

theorem toNat_add_four {a : Word} (ha : a.toNat % 8 = 0) : (a + 4).toNat = a.toNat + 4 := by
  bv_omega

/-- The second word of an aligned doubleword lies four bytes on from the first. -/
theorem translate_add_four {cfg : Config} (hc : configOk cfg = true) (self : CoreId) {a : Word}
    (ha : a.toNat % 8 = 0) : translate cfg self (a + 4) = (translate cfg self a).plus 4 := by
  have hsum := toNat_add_four ha
  have hcore : coreIdOf (a + 4) = coreIdOf a := CoreId.key_inj (by
    simp only [CoreId.key, coreIdOf_row, coreIdOf_col, hsum]
    omega)
  have hoff : (a.toNat + 4) % 2 ^ 20 = a.toNat % 2 ^ 20 + 4 := by omega
  have hlocal : ∀ c, localTarget cfg c (a.toNat % 2 ^ 20 + 4) = (localTarget cfg c (a.toNat % 2 ^ 20)).plus 4 :=
    fun c => localTarget_add_four hc c (by omega)
  obtain ⟨hbase, hsize⟩ := configOk_ext hc
  by_cases hext : cfg.extBase ≤ a.toNat ∧ a.toNat < cfg.extBase + cfg.extSize
  · rw [translate_of_external self (by omega), translate_of_external self hext, hsum, Target.plus]
    congr 1
    omega
  · have hext' : ¬(cfg.extBase ≤ (a + 4).toNat ∧ (a + 4).toNat < cfg.extBase + cfg.extSize) := by omega
    by_cases hlow : a.toNat < 2 ^ 20
    · rw [translate_of_lowRange self hext' (by omega), translate_of_lowRange self hext hlow, hsum, hoff, hlocal]
    · have hlow' : ¬ (a + 4).toNat < 2 ^ 20 := by omega
      by_cases hgrid : inGrid cfg (coreIdOf a) = true
      · rw [translate_of_grid self hext' hlow' (hcore ▸ hgrid), translate_of_grid self hext hlow hgrid, hcore, hsum,
          hoff, hlocal]
      · rw [translate_of_not_grid self hext' hlow' (hcore ▸ hgrid), translate_of_not_grid self hext hlow hgrid,
          Target.plus]

/-- The second word of an aligned doubleword lies in no word that an even register holds. -/
theorem windowIndex_add_four_ne {w : RegWindow} (hw : windowOk w = true) {off j k : Nat} (ho : off % 8 = 0)
    (hj : j < 4) (hk : k % 2 = 0) (hin : inWindow w (off + (4 + j)) = true) : windowIndex w (off + (4 + j)) ≠ k := by
  obtain ⟨hbase, -⟩ := (windowOk_iff w).mp hw
  obtain ⟨hlo, -⟩ := (inWindow_iff w _).mp hin
  rw [windowIndex]
  omega

/-- Writing an even register keeps the second word of an aligned doubleword, also where the register holds its first. -/
theorem byteOf_setReg_second {s : State} (hc : configOk s.cfg = true) {a : Word} (ha : aligned a 8 = true)
    {rd : RegIdx} (hrd : rd.toNat % 2 = 0) (v : Word) {j : Nat} (hj : j < 4) :
    (s.setReg rd v).byteOf ((translate s.cfg s.self a).plus (4 + j)) =
      s.byteOf ((translate s.cfg s.self a).plus (4 + j)) := by
  refine s.byteOf_setReg rd v fun k hk hin => ?_
  cases hg : translate s.cfg s.self a with
  | external off => rw [hg] at hk; cases hk
  | invalid => rw [hg] at hk; cases hk
  | core c off =>
    rw [hg] at hk
    cases hk
    exact windowIndex_add_four_ne (configOk_window hc) (aligned_core hg (by decide) ha).1 hj hrd hin

/-! ## Loads of each size (R221) -/

/-- The registers of a load hold the bytes from its address, and nothing but these registers was written. -/
structure Loaded (s : State) (x : Transfer) (t : State) : Prop where
  low : ∀ j, j < 4 → (t.reg x.rd).extractLsb' (8 * j) 8 =
    if j < sizeBytes x.size then s.byteOf ((translate s.cfg s.self x.ea).plus j) else 0
  high : x.size = .double → ∀ j, j < 4 → (t.reg (pairReg x.rd)).extractLsb' (8 * j) 8 =
    s.byteOf ((translate s.cfg s.self x.ea).plus (4 + j))
  rest : Registers s t ((loadRegs x).map BitVec.toNat)

theorem loadRegs_double {x : Transfer} (hz : x.size = .double) : loadRegs x = [x.rd, pairReg x.rd] := if_pos hz

theorem loadRegs_single {x : Transfer} (hz : x.size ≠ .double) : loadRegs x = [x.rd] := if_neg hz

theorem mem_loadRegs (x : Transfer) (r : RegIdx) :
    r ∈ loadRegs x ↔ r = x.rd ∨ x.size = .double ∧ r = pairReg x.rd := by
  by_cases hz : x.size = .double
  · rw [loadRegs_double hz, List.mem_pair, and_iff_right hz]
  · rw [loadRegs_single hz, List.mem_singleton, or_iff_left fun h => hz h.1]

theorem baseLoaded_iff {x : Transfer} {rn : RegIdx} {v : Word} (h : x.base = some (rn, v)) :
    baseLoaded x ↔ rn ∈ loadRegs x := by
  refine ⟨?_, fun hmem => ⟨rn, v, h, hmem⟩⟩
  rintro ⟨rn', v', h', hmem⟩
  cases h.symm.trans h'
  exact hmem

theorem accessBytes_sizeAccess {size : Size} (hz : size ≠ .double) :
    accessBytes (sizeAccess size) = sizeBytes size := by
  cases size with
  | double => exact absurd rfl hz
  | _ => rfl

section
variable {s : State} {x : Transfer} (hc : configOk s.cfg = true) (ha : x.ea.toNat % sizeBytes x.size = 0)
  (ht : translate s.cfg s.self x.ea ≠ .invalid)
include hc ha ht

theorem loadN_single (hz : x.size ≠ .double) : ∃ t, loadN s x.ea x.size x.rd = .ok t ∧ Loaded s x t := by
  have hsize := accessBytes_sizeAccess hz
  obtain ⟨v, hread, hbytes⟩ := memRead_bytes hc (size := sizeAccess x.size)
    (hsize ▸ (aligned_iff _ _).mpr ha) ht
  refine ⟨s.setReg x.rd v, by rw [loadN, if_neg hz, hread, Res.ok_bind], fun j hj => ?_, fun h => absurd h hz, ?_⟩
  · rw [State.reg_setReg_same, hbytes j hj, hsize]
  · rw [loadRegs_single hz]
    exact registers_setReg s x.rd v

/-- A doubleword: the second read sees nothing of the first register's write. -/
theorem loadN_double (hz : x.size = .double) (hrd : x.rd.toNat % 2 = 0) :
    ∃ t, loadN s x.ea x.size x.rd = .ok t ∧ Loaded s x t := by
  have hmod : x.ea.toNat % 8 = 0 := by rw [hz] at ha; exact ha
  have hdouble : aligned x.ea 8 = true := (aligned_iff _ 8).mpr hmod
  have hword : aligned x.ea 4 = true := (aligned_iff _ _).mpr (by omega)
  have hword' : aligned (x.ea + 4) 4 = true := (aligned_iff _ _).mpr (by rw [toNat_add_four hmod]; omega)
  have hnext := translate_add_four hc s.self hmod
  obtain ⟨lo, hlo, hlow⟩ := memRead_word hc hword ht
  obtain ⟨hi, hhi, hhigh⟩ := memRead_word (s := s.setReg x.rd lo) hc (c := s.self) hword'
    (hnext ▸ Target.plus_ne_invalid ht 4)
  have hpair := pairReg_ne x.rd
  refine ⟨(s.setReg x.rd lo).setReg (pairReg x.rd) hi, ?_, fun j hj => ?_, fun _ j hj => ?_, ?_⟩
  · rw [loadN, if_pos hz, if_pos hdouble, hlo, Res.ok_bind, hhi, Res.ok_bind]
  · rw [State.reg_setReg_ne _ _ hpair.symm, State.reg_setReg_same, hlow j hj, hz, if_pos (hj.trans (by decide))]
  · rw [State.reg_setReg_same, hhigh j hj, State.setReg_cfg, hnext, Target.plus_plus,
      byteOf_setReg_second hc hdouble hrd lo hj]
  · rw [loadRegs_double hz]
    exact (registers_setReg s x.rd lo).trans (registers_setReg _ (pairReg x.rd) hi)

theorem loadN_loaded (hrd : x.size = .double → x.rd.toNat % 2 = 0) :
    ∃ t, loadN s x.ea x.size x.rd = .ok t ∧ Loaded s x t := by
  by_cases hz : x.size = .double
  · exact loadN_double hc ha ht hz (hrd hz)
  · exact loadN_single hc ha ht hz

end

/-! ## The base's update (R227) -/

/-- The state after the base register of a postmodify form received its value. -/
def Transfer.setBase (x : Transfer) (t : State) : State :=
  match x.base with
  | some (rn, v) => t.setReg rn v
  | none => t

section
variable {x : Transfer} (t : State)

theorem Transfer.setBase_of_none (h : x.base = none) : x.setBase t = t := by rw [setBase, h]

theorem Transfer.setBase_of_some {rn : RegIdx} {v : Word} (h : x.base = some (rn, v)) :
    x.setBase t = t.setReg rn v := by rw [setBase, h]

theorem Transfer.registers_setBase : Registers t (x.setBase t) (baseWords x) := by
  cases h : x.base with
  | none => rw [setBase_of_none t h, baseWords, h]; exact Registers.refl t
  | some p => rw [setBase_of_some t h, baseWords, h]; exact registers_setReg t p.1 p.2

theorem Transfer.baseUpdated_setBase : BaseUpdated x (x.setBase t) := by
  intro rn v h
  rw [setBase_of_some t h, State.reg_setReg_same]

theorem Transfer.reg_setBase (hb : ¬ baseLoaded x) {r : RegIdx} (hr : r ∈ loadRegs x) :
    (x.setBase t).reg r = t.reg r := by
  cases h : x.base with
  | none => rw [setBase_of_none t h]
  | some p =>
    rw [setBase_of_some t h]
    exact State.reg_setReg_ne t p.2 fun he => hb ((baseLoaded_iff h).mpr (he ▸ hr))

end

/-! ## The instructions -/

/-- What each load form runs (R222 to R225). -/
def Transfer.load (x : Transfer) (s : State) : Host.Outcome State Fault Refusal :=
  runInstr x.width s ((loadN s x.ea x.size x.rd).bind fun t => .ok (.next, x.setBase t))

theorem loadsBase_iff (rd rn : RegIdx) (size : Size) (width : Nat) (ea v : Word) :
    loadsBase rd rn size = true ↔ baseLoaded ⟨width, rd, size, ea, some (rn, v)⟩ := by
  rw [baseLoaded_iff rfl, mem_loadRegs, loadsBase, Bool.or_eq_true, Bool.and_eq_true, beq_iff_eq, beq_iff_eq,
    beq_iff_eq, eq_comm (a := rd), eq_comm (a := pairReg rd)]

theorem loadPost_eq_load (width : Nat) (s : State) {rd rn : RegIdx} {v : Word} {size : Size}
    (hb : ¬ baseLoaded ⟨width, rd, size, s.reg rn, some (rn, v)⟩) :
    loadPost width s rd rn v size = Transfer.load ⟨width, rd, size, s.reg rn, some (rn, v)⟩ s :=
  if_neg (mt (loadsBase_iff rd rn size width (s.reg rn) v).mp hb)

theorem exec_of_loadForm {s : State} {i : Instr} {x : Transfer} (h : loadForm s i = some x) (hb : ¬ baseLoaded x) :
    exec i s = x.load s := by
  cases i with
  | ldrIndex16 rd rn rm size => cases h; rfl
  | ldrIndex32 rd rn rm size sub => cases h; rfl
  | ldrDisp16 rd rn imm size => cases h; rfl
  | ldrDisp32 rd rn imm size sub => cases h; rfl
  | ldrPost16 rd rn rm size => cases h; exact loadPost_eq_load 2 s hb
  | ldrPost32 rd rn rm size sub => cases h; exact loadPost_eq_load 4 s hb
  | ldrDispPost rd rn imm size sub => cases h; exact loadPost_eq_load 4 s hb
  | _ => cases h

/-- Settles O32: each form is one load and the base's update, run to the end of its instruction. -/
theorem loadsComplete : Obligations.LoadsComplete := by
  intro s i x hc hi hx ha ht hb
  obtain ⟨t, hload, hloaded⟩ := loadN_loaded hc ha ht (even_of_loadForm hx hi)
  have hreg : ∀ r, r ∈ loadRegs x → (complete x.width s.pc .next (x.setBase t)).reg r = t.reg r := fun r hr =>
    (reg_complete _ _ _ _ r).trans (x.reg_setBase t hb hr)
  refine ⟨addressed_of_loadForm hx, complete x.width s.pc .next (x.setBase t), ?run, ?low, ?high, ?base, ?rest⟩
  case run => rw [exec_of_loadForm hx hb, Transfer.load, hload, Res.ok_bind, runInstr_ok]
  case low => rw [hreg x.rd ((mem_loadRegs x _).mpr (.inl rfl))]; exact hloaded.low
  case high =>
    intro hz
    rw [hreg (pairReg x.rd) ((mem_loadRegs x _).mpr (.inr ⟨hz, rfl⟩))]
    exact hloaded.high hz
  case base => exact fun rn v hbase => (reg_complete _ _ _ _ rn).trans (x.baseUpdated_setBase t rn v hbase)
  case rest => exact (hloaded.rest.trans (x.registers_setBase t)).completed x.width

end Sys2Proof.Machine
end

section
/-! Family 43_branch.md: the condition codes (R250), branches (R251, R252), JR and JALR (R253, R254). -/

namespace Sys2Proof.Machine

/-! ## Condition codes (R250) -/

theorem evalCond_ac_ruleAlu (st : Word) : evalCond ruleAlu st .ac = st.getLsbD bitAC := Bool.xor_false _

/-- Settles O27: with the rule's polarity the carry is read as AC, and each code's predicate is its row. -/
theorem conditionTable : Obligations.ConditionTable := by
  intro s halu hconds
  have hac := evalCond_ac_ruleAlu (s.ctl .status)
  simp only [condHolds, halu, hconds]
  refine ⟨rfl, rfl, ?gtu, hac, ?lteu, ?ltu, rfl, rfl, rfl, rfl, rfl, rfl, rfl, rfl, rfl, rfl⟩
  case gtu => exact congrArg (!s.flag bitAZ && ·) hac
  case lteu => exact congrArg (s.flag bitAZ || !·) hac
  case ltu => exact congrArg (!·) hac

/-! ## Instructions that set the program counter (R10) -/

section
variable {s u : State} (width : Nat) (target : Word)

/-- An instruction that writes general registers, sets the program counter and returns `None` is completed, with the
program counter as the target. -/
theorem completed_setPc {ks : List Nat} (h : Frame s u ks) (ho : SameOutcome s u) (hn : u.me.notes = s.me.notes)
    (hregs : ∀ k ∈ ks, k < 64) : Completed s (complete width s.pc .none (u.setPc target)) target ks := by
  have hctl : ∀ r : Ctl, r.index ∉ ks := fun r hr => by
    have hlow := hregs _ hr
    have hhigh := r.index_ge
    omega
  have hks : (ks ++ [Ctl.index .pc]).filter (· ≠ Ctl.index .pc) = ks := by
    have hself : ks.filter (· ≠ Ctl.index .pc) = ks :=
      List.filter_eq_self.mpr fun k hk => decide_eq_true fun he => hctl .pc (he ▸ hk)
    rw [List.filter_append, hself]
    exact List.append_nil ks
  have hloop : ∀ r : Ctl, r ∈ [Ctl.lc, .le, .ls] → r.index ∉ ks ++ [Ctl.index .pc] := by
    intro r hr hm
    rcases List.mem_append.mp hm with hm | hm
    · exact hctl r hm
    · rw [List.mem_singleton, Ctl.index_eq_iff] at hm
      rw [hm] at hr
      exact absurd hr (by decide)
  have hdone := completed_none width (h.trans (frame_setPc u target)) (ho.trans (outcome_setCtl u .pc target))
    (by rw [State.me_setPc, ECore.setCtl_notes, hn]) (u.pc_setPc target) hloop
  rwa [hks] at hdone

variable (s)

/-- A jump, without link. -/
theorem runInstr_setPc : Next (runInstr width s (.ok (.none, s.setPc target))) fun t => Completed s t target [] :=
  ⟨_, runInstr_ok _ _ _ _,
    completed_setPc width target (Frame.refl s []) (SameOutcome.refl s) rfl fun _ hk => absurd hk List.not_mem_nil⟩

end

/-! ## The link register (R252, R254) -/

section
variable {s : State} {width : Nat} (hlink : s.cfg.link = ruleLink) (hw : width = 2 ∨ width = 4)
include hlink hw

theorem writeLink_ruleLink : writeLink width s = s.setReg 14 (s.pc + BitVec.ofNat 32 width) := by
  rw [writeLink, linkValue, hlink]
  rcases hw with rfl | rfl <;> rfl

/-- A jump that first writes the link register. -/
theorem runInstr_link_setPc (target : Word) :
    Next (runInstr width s (.ok (.none, (writeLink width s).setPc target))) fun t =>
      t.reg 14 = s.pc + BitVec.ofNat 32 width ∧ Completed s t target [14] := by
  rw [writeLink_ruleLink hlink hw]
  refine ⟨_, runInstr_ok _ _ _ _, ?link, ?completed⟩
  case link => rw [reg_complete, State.reg_setPc, State.reg_setReg_same]
  case completed =>
    refine completed_setPc width target (frame_setReg s 14 _) (outcome_setReg s 14 _) ?_ (by decide)
    rw [State.me_setReg, ECore.setWord_notes]

end

/-! ## B<cond> (R251, R252) -/

/-- A displacement counts halfwords and is added modulo `2^32`. -/
theorem branchDisp_eq {n : Nat} (v : BitVec n) : branchDisp v = BitVec.ofInt 32 (2 * v.toInt) := by
  rw [branchDisp, BitVec.shiftLeft_eq_mul_twoPow, BitVec.mul_comm, BitVec.ofInt_mul]
  rfl

section
variable {s : State} {width : Nat} {cond : Cond} (disp : Word)

theorem branchIf_of_not_holds (hcond : ¬ condHolds s.cfg (s.ctl .status) cond = true) :
    branchIf width s cond disp = runNext width s s := if_neg hcond

theorem branchIf_of_holds (hcond : condHolds s.cfg (s.ctl .status) cond = true) (hne : cond ≠ .link) :
    branchIf width s cond disp = runInstr width s (.ok (.none, s.setPc (s.pc + disp))) := by
  rw [branchIf, if_pos hcond, if_neg hne]

theorem branchIf_of_link (hcond : condHolds s.cfg (s.ctl .status) .link = true) :
    branchIf width s .link disp = runInstr width s (.ok (.none, (writeLink width s).setPc (s.pc + disp))) := by
  rw [branchIf, if_pos hcond, if_pos rfl]

/-- B<cond>: not taken, taken, or taken with link. -/
theorem branchIf_completes (hlink : s.cfg.link = ruleLink) (hw : width = 2 ∨ width = 4) (cond : Cond) :
    Next (branchIf width s cond disp) fun t =>
      if condHolds s.cfg (s.ctl .status) cond then
        if cond = .link then t.reg 14 = s.pc + BitVec.ofNat 32 width ∧ Completed s t (s.pc + disp) [14]
        else Completed s t (s.pc + disp) []
      else Completed s t (s.pc + BitVec.ofNat 32 width) [] := by
  by_cases hcond : condHolds s.cfg (s.ctl .status) cond = true
  · simp only [if_pos hcond]
    by_cases hl : cond = .link
    · subst hl
      simp only [if_true]
      rw [branchIf_of_link disp hcond]
      exact runInstr_link_setPc hlink hw (s.pc + disp)
    · simp only [if_neg hl]
      rw [branchIf_of_holds disp hcond hl]
      exact runInstr_setPc s width (s.pc + disp)
  · simp only [if_neg hcond]
    rw [branchIf_of_not_holds disp hcond]
    exact ⟨_, runInstr_ok _ _ _ _, completed_refl s width⟩

end

theorem exec_bcond16 (imm : BitVec 8) (cond : Cond) (s : State) :
    exec (.bcond16 imm cond) s = branchIf 2 s cond (branchDisp imm) := rfl

theorem exec_bcond32 (imm : BitVec 24) (cond : Cond) (s : State) :
    exec (.bcond32 imm cond) s = branchIf 4 s cond (branchDisp imm) := rfl

/-- Settles O39: both forms are one conditional branch by a displacement in halfwords. -/
theorem branchesComplete : Obligations.BranchesComplete := by
  rintro s i width cond disp hlink (⟨imm, rfl, rfl, rfl⟩ | ⟨imm, rfl, rfl, rfl⟩)
  · rw [exec_bcond16, branchDisp_eq]
    exact branchIf_completes _ hlink (.inl rfl) cond
  · rw [exec_bcond32, branchDisp_eq]
    exact branchIf_completes _ hlink (.inr rfl) cond

/-! ## JR and JALR (R253, R254) -/

/-- Settles O40: each form sets the program counter to a word read in the state before it, JALR after the link
register. -/
theorem jumpsComplete : Obligations.JumpsComplete := fun s hlink =>
  ⟨fun rn => runInstr_setPc s 2 (s.reg (lowReg rn)), fun rn => runInstr_setPc s 4 (s.reg rn),
    fun rn => runInstr_link_setPc hlink (.inl rfl) (s.reg (lowReg rn)),
    fun rn => runInstr_link_setPc hlink (.inr rfl) (s.reg rn)⟩

end Sys2Proof.Machine
end

section
/-! Family 44_float.md: the arithmetic mode of the float instructions (R271). -/

namespace Sys2Proof.Machine

/-! ## Another arithmetic mode (R271, U22) -/

theorem floatMode_iff (s : State) : floatMode s = true ↔ arithMode s = 0 := beq_iff_eq

section
variable {s : State} (hmode : arithMode s ≠ 0) (width : Nat)
include hmode

/-- The only place where a float instruction looks at the mode: whatever it computed, the state `t` included, is
dropped. -/
theorem runFloat_refused (t : State) : runFloat width s t = .refused .arithModeNotFloat :=
  if_neg fun hfloat => hmode ((floatMode_iff s).mp hfloat)

theorem floatArith_refused (op : FpArithOp) (rd rn rm : RegIdx) :
    floatArith width s op rd rn rm = .refused .arithModeNotFloat := runFloat_refused hmode width _

theorem floatFma_refused (op : FpArithOp) (rd rn rm : RegIdx) :
    floatFma width s op rd rn rm = .refused .arithModeNotFloat := runFloat_refused hmode width _

theorem floatFromInt_refused (rd rn : RegIdx) : floatFromInt width s rd rn = .refused .arithModeNotFloat :=
  runFloat_refused hmode width _

theorem floatToInt_refused (rd rn : RegIdx) : floatToInt width s rd rn = .refused .arithModeNotFloat :=
  runFloat_refused hmode width _

theorem floatAbs_refused (rd rn : RegIdx) : floatAbs width s rd rn = .refused .arithModeNotFloat :=
  runFloat_refused hmode width _

end

/-- Settles O44: each of the sixteen forms is one of five shared operations, and each of these is refused. -/
theorem integerModeIsRefused : Obligations.IntegerModeIsRefused := by
  intro s hmode
  simp only [List.forall_mem_cons]
  refine ⟨fun rd rn rm => ?half, fun rd rn rm => ?full⟩
  case half =>
    exact ⟨floatArith_refused hmode 2 .fadd (lowReg rd) (lowReg rn) (lowReg rm),
      floatArith_refused hmode 2 .fsub (lowReg rd) (lowReg rn) (lowReg rm),
      floatArith_refused hmode 2 .fmul (lowReg rd) (lowReg rn) (lowReg rm),
      floatFma_refused hmode 2 .fmadd (lowReg rd) (lowReg rn) (lowReg rm),
      floatFma_refused hmode 2 .fmsub (lowReg rd) (lowReg rn) (lowReg rm),
      floatFromInt_refused hmode 2 (lowReg rd) (lowReg rn),
      floatToInt_refused hmode 2 (lowReg rd) (lowReg rn),
      floatAbs_refused hmode 2 (lowReg rd) (lowReg rn), List.forall_mem_nil _⟩
  case full =>
    exact ⟨floatArith_refused hmode 4 .fadd rd rn rm, floatArith_refused hmode 4 .fsub rd rn rm,
      floatArith_refused hmode 4 .fmul rd rn rm, floatFma_refused hmode 4 .fmadd rd rn rm,
      floatFma_refused hmode 4 .fmsub rd rn rm, floatFromInt_refused hmode 4 rd rn,
      floatToInt_refused hmode 4 rd rn, floatAbs_refused hmode 4 rd rn, List.forall_mem_nil _⟩

end Sys2Proof.Machine
end

section
/-! Family 45_system.md: the system instructions that act on the executing core alone (R300 to R313). -/

namespace Sys2Proof.Machine

/-! ## Instructions that write one control register (R304, R306, R307) -/

section
variable (s : State) (width : Nat)

/-- An instruction that writes one control register, none of those the end of an instruction reads. -/
theorem runNext_setCtl {r : Ctl} (hr : r ∉ [Ctl.pc, .lc, .le, .ls]) (v : Word) :
    Next (runNext width s (s.setCtl r v)) fun t =>
      t.ctl r = v ∧ Completed s t (s.pc + BitVec.ofNat 32 width) [r.index] := by
  have hpc : r ≠ .pc := fun he => hr (by simp [he])
  have hlc : r ≠ .lc := fun he => hr (by simp [he])
  have hloop : ∀ q : Ctl, q ∈ [Ctl.pc, .lc, .le, .ls] → q.index ∉ [r.index] := fun q hq hm =>
    hr (Ctl.index_inj (List.mem_singleton.mp hm) ▸ hq)
  exact ⟨_, runInstr_ok _ _ _ _, (ctl_complete _ _ _ _ hpc hlc).trans (s.ctl_setCtl_same r v),
    completed_next width (frame_setCtl s r v) (outcome_setCtl s r v)
      (by rw [State.me_setCtl, ECore.setCtl_notes]) hloop⟩

/-- An instruction that writes one bit of such a register. -/
theorem runNext_setCtlBit {r : Ctl} (hr : r ∉ [Ctl.pc, .lc, .le, .ls]) {i : Nat} (hi : i < 32) (v : Bool) :
    Next (runNext width s (s.setCtl r (setBit (s.ctl r) i v))) fun t =>
      (∀ b, (t.ctl r).getLsbD b = if b = i then v else (s.ctl r).getLsbD b) ∧
      Completed s t (s.pc + BitVec.ofNat 32 width) [r.index] := by
  obtain ⟨t, ht, hctl, hdone⟩ := runNext_setCtl s width hr (setBit (s.ctl r) i v)
  exact ⟨t, ht, fun b => by rw [hctl, getLsbD_setBit _ _ _ _ hi], hdone⟩

/-- An instruction that writes one bit of STATUS. -/
theorem runNext_setFlag {i : Nat} (hi : i < 32) (v : Bool) : Next (runNext width s (s.setFlag i v)) fun t =>
    t.flag i = v ∧ (∀ b, b ≠ i → t.flag b = s.flag b) ∧
    Completed s t (s.pc + BitVec.ofNat 32 width) [Ctl.index .status] := by
  obtain ⟨t, ht, hbits, hdone⟩ := runNext_setCtlBit s width (r := .status) (by decide) hi v
  exact ⟨t, ht, (hbits i).trans (if_pos rfl), fun b hb => (hbits b).trans (if_neg hb), hdone⟩

/-- BKPT (R304). -/
theorem runNext_setHalt :
    Next (runNext width s (s.setCtl .debugStatus (setBit (s.ctl .debugStatus) bitHalt true))) fun t =>
      (∀ b, (t.ctl .debugStatus).getLsbD b = (b == 0 || (s.ctl .debugStatus).getLsbD b)) ∧
      Completed s t (s.pc + BitVec.ofNat 32 width) [Ctl.index .debugStatus] := by
  obtain ⟨t, ht, hbits, hdone⟩ :=
    runNext_setCtlBit s width (r := .debugStatus) (by decide) (i := bitHalt) (by decide) true
  refine ⟨t, ht, fun b => ?_, hdone⟩
  rw [hbits]
  by_cases hb : b = bitHalt
  · rw [if_pos hb, hb]
    rfl
  · have hzero : (b == 0) = false := beq_false_of_ne hb
    rw [if_neg hb, hzero, Bool.false_or]

end

/-! ## An interrupt latched on the executing core (R313, R343) -/

theorem me_trigger_self (s : State) (irq : Fin 9) (cause : Option Cause) :
    (trigger s s.self irq cause).me = s.me.latch s.cfg irq cause := State.core_setCore_same _ _ _

/-- An instruction that triggers a level with a cause on its own core. -/
theorem runNext_trigger_self (s : State) (width : Nat) (irq : Fin 9) (q : Cause) :
    Next (runNext width s (trigger s s.self irq (some q))) fun t =>
      LatchSet (s.ctl .ilat) (t.ctl .ilat) irq ∧ CauseWritten s.cfg (s.ctl .status) (t.ctl .status) q ∧
      Completed s t (s.pc + BitVec.ofNat 32 width) [Ctl.index .ilat, Ctl.index .status] := by
  obtain ⟨hlatch, hcause, -, -, -, -, hnotes⟩ := latch_spec s.cfg s.me irq (some q)
  refine ⟨_, runInstr_ok _ _ _ _, ?latch, ?cause, ?completed⟩
  case latch =>
    rw [ctl_complete _ _ _ _ (by decide) (by decide), State.ctl, State.ctl, me_trigger_self]
    exact hlatch
  case cause =>
    rw [ctl_complete _ _ _ _ (by decide) (by decide), State.ctl, State.ctl, me_trigger_self]
    exact hcause q rfl
  case completed =>
    exact completed_next width (frame_trigger_self s irq _) (outcome_trigger_self s irq _)
      (by rw [me_trigger_self, hnotes]) (by decide)

/-! ## The control signal `Idle` (R301, R361) -/

/-- `Idle` is `Next` from the state with the idle flag set. -/
theorem complete_idle (width : Nat) (a : Word) (t : State) :
    complete width a .idle t = complete width a .next (applyIdle .idle t) := rfl

theorem me_applyIdle (s : State) : (applyIdle .idle s).me = { s.me with idle := true } := State.me_modMe s _

theorem ctl_applyIdle (s : State) (r : Ctl) : (applyIdle .idle s).ctl r = s.ctl r := by
  rw [State.ctl, me_applyIdle]
  rfl

/-- The advance of the program counter reads only the control registers of the state before it. -/
theorem Advanced.of_ctl_eq {s u t : State} {pcx : Word} (h : Advanced u t pcx) (hctl : ∀ r, u.ctl r = s.ctl r) :
    Advanced s t pcx := by
  have hpc : u.pc = s.pc := hctl .pc
  have hloop : atLoopEnd u ↔ atLoopEnd s := by rw [atLoopEnd, atLoopEnd, hpc, hctl, hctl]
  refine ⟨fun hl => ?_, fun hl => ?_⟩
  · rw [← hctl, ← hctl]
    exact h.loop (hloop.mpr hl)
  · rw [← hctl]
    exact h.straight (mt hloop.mp hl)

/-- An instruction that writes nothing and returns `Idle`. -/
theorem runInstr_idle (s : State) (width : Nat) : Next (runInstr width s (.ok (.idle, s))) fun t =>
    t.me.idle = true ∧ t.me.passed = s.me.passed ∧ t.me.failed = s.me.failed ∧ t.me.exitCode = s.me.exitCode ∧
    t.me.notes = .validInstruction :: s.me.notes ∧ Advanced s t (s.pc + BitVec.ofNat 32 width) ∧
    Frame s t [Ctl.index .pc, Ctl.index .lc] := by
  have hpc : (applyIdle .idle s).pc = s.pc := ctl_applyIdle s .pc
  have hdone := completed_refl (applyIdle .idle s) width
  rw [hpc, ← complete_idle] at hdone
  obtain ⟨hadv, hnotes, -, hidle, hpassed, hfailed, hexit⟩ := hdone
  rw [me_applyIdle] at hnotes hidle hpassed hfailed hexit
  exact ⟨_, runInstr_ok _ _ _ _, hidle, hpassed, hfailed, hexit, hnotes, hadv.of_ctl_eq (ctl_applyIdle s),
    frame_complete width s.pc .idle s⟩

/-- Settles O49: each instruction is one of the writes above, followed by the end of an instruction of two bytes. -/
theorem plainSystemCompletes : Obligations.PlainSystemCompletes := fun s =>
  ⟨⟨_, runInstr_ok _ _ _ _, completed_refl s 2⟩, runNext_setFlag s 2 (by decide) false,
    runNext_setFlag s 2 (by decide) true, runNext_setHalt s 2, runInstr_idle s 2,
    fun _ => runNext_trigger_self s 2 irqUser .softwareInterrupt⟩

/-! ## The lowest pending level (R310) -/

theorem lowestPending_eq_some_iff (ipend : Word) (i : Nat) : lowestPending ipend = some i ↔
    ipend.getLsbD i = true ∧ i < 9 ∧ ∀ j, j < i → ipend.getLsbD j = false := by
  simp only [lowestPending, List.find?_range_eq_some, List.mem_range, Bool.not_eq_true']

theorem lowestPending_eq_none_iff (ipend : Word) : lowestPending ipend = none ↔
    ∀ i, i < 9 → ipend.getLsbD i = false := by
  simp only [lowestPending, List.find?_range_eq_none, Bool.not_eq_true']

/-- IPEND after a return from an interrupt (`word_leaveInterrupt`). -/
def clearLowestPending (ipend : Word) : Word :=
  match lowestPending ipend with
  | some i => setBit ipend i false
  | none => ipend

theorem getLsbD_clearLowestPending {ipend : Word} {i : Nat} (h : lowestPending ipend = some i) (b : Nat) :
    (clearLowestPending ipend).getLsbD b = (b != i && ipend.getLsbD b) := by
  have hi : i < 32 := by
    obtain ⟨-, hlt, -⟩ := (lowestPending_eq_some_iff ipend i).mp h
    omega
  simp only [clearLowestPending, h, getLsbD_setBit _ _ _ _ hi]
  by_cases hb : b = i
  · rw [if_pos hb, hb, bne_self_eq_false, Bool.false_and]
  · rw [if_neg hb, bne_iff_ne.mpr hb, Bool.true_and]

theorem clearLowestPending_of_none {ipend : Word} (h : lowestPending ipend = none) :
    clearLowestPending ipend = ipend := by
  simp only [clearLowestPending, h]

/-! ## Returning from an interrupt (R310, R352) -/

/-- A return changes nothing of a core but its window. -/
theorem leaveInterrupt_eq (x : ECore) : ∃ w, leaveInterrupt x = { x with window := w } := by
  unfold leaveInterrupt
  split
  · exact ⟨_, rfl⟩
  · exact ⟨_, rfl⟩

/-- The window after a return: PC, STATUS and IPEND, and every other word as it was. -/
theorem word_leaveInterrupt (x : ECore) (k : Nat) : (leaveInterrupt x).word k =
    if k = Ctl.index .pc then x.ctl .iret
    else if k = Ctl.index .status then setBit (x.ctl .status) bitGid false
    else if k = Ctl.index .ipend then clearLowestPending (x.ctl .ipend) else x.word k := by
  cases hl : lowestPending (x.ctl .ipend) with
  | some i =>
    simp only [leaveInterrupt, clearLowestPending, hl, ECore.word_setCtl, ECore.ctl_setCtl, reduceCtorEq, if_false]
  | none =>
    have hipend : (if k = Ctl.index .ipend then x.ctl .ipend else x.word k) = x.word k :=
      ite_eq_right_iff.mpr fun hk => hk ▸ rfl
    simp only [leaveInterrupt, clearLowestPending, hl, ECore.word_setCtl, hipend]

section
variable (s : State)

theorem word_rtiEffect (k : Nat) : (rtiEffect s).me.word k =
    if k = Ctl.index .pc then s.ctl .iret
    else if k = Ctl.index .status then setBit (s.ctl .status) bitGid false
    else if k = Ctl.index .ipend then clearLowestPending (s.ctl .ipend) else s.me.word k := by
  rw [rtiEffect, State.me_modMe, word_leaveInterrupt]
  rfl

theorem pc_rtiEffect : (rtiEffect s).pc = s.ctl .iret := word_rtiEffect s (Ctl.index .pc)

theorem ctl_status_rtiEffect : (rtiEffect s).ctl .status = setBit (s.ctl .status) bitGid false :=
  word_rtiEffect s (Ctl.index .status)

theorem ctl_ipend_rtiEffect : (rtiEffect s).ctl .ipend = clearLowestPending (s.ctl .ipend) :=
  word_rtiEffect s (Ctl.index .ipend)

theorem frame_rtiEffect : Frame s (rtiEffect s) [Ctl.index .ipend, Ctl.index .status, Ctl.index .pc] := by
  obtain ⟨w, hw⟩ := leaveInterrupt_eq s.me
  refine frame_modMe s leaveInterrupt _ (by rw [hw]) fun k hk => ?_
  simp only [List.mem_cons, List.not_mem_nil, or_false, not_or] at hk
  obtain ⟨hipend, hstatus, hpc⟩ := hk
  rw [word_leaveInterrupt, if_neg hpc, if_neg hstatus, if_neg hipend]

theorem outcome_rtiEffect : SameOutcome s (rtiEffect s) := by
  obtain ⟨w, hw⟩ := leaveInterrupt_eq s.me
  constructor <;> rw [rtiEffect, State.me_modMe, hw]

theorem notes_rtiEffect : (rtiEffect s).me.notes = s.me.notes := by
  obtain ⟨w, hw⟩ := leaveInterrupt_eq s.me
  rw [rtiEffect, State.me_modMe, hw]

theorem flag_rtiEffect (b : Nat) : (rtiEffect s).flag b = if b = bitGid then false else s.flag b := by
  rw [State.flag, ctl_status_rtiEffect, getLsbD_setBit _ _ _ _ (by decide), State.flag]

/-- PC is a word that RTI writes, but `Completed` speaks of it itself. -/
theorem completed_rti (width : Nat) : Completed s (complete width s.pc .none (rtiEffect s)) (s.ctl .iret)
    [Ctl.index .ipend, Ctl.index .status] :=
  completed_none width (frame_rtiEffect s) (outcome_rtiEffect s) (notes_rtiEffect s) (pc_rtiEffect s) (by decide)

end

/-- Settles O52: the three words that a return writes, read after the end of the instruction, which keeps IPEND and
STATUS. -/
theorem returnFromInterruptCompletes : Obligations.ReturnFromInterruptCompletes := by
  intro s
  have hipend : (complete 2 s.pc .none (rtiEffect s)).ctl .ipend = clearLowestPending (s.ctl .ipend) :=
    (ctl_complete _ _ _ _ (by decide) (by decide)).trans (ctl_ipend_rtiEffect s)
  have hflag : ∀ b, (complete 2 s.pc .none (rtiEffect s)).flag b = if b = bitGid then false else s.flag b := fun b =>
    (flag_complete _ _ _ _ b).trans (flag_rtiEffect s b)
  refine ⟨_, runInstr_ok _ _ _ _, fun i hi hset hlow b => ?pending, fun hclear => ?none,
    (hflag bitGid).trans (if_pos rfl), fun b hb => (hflag b).trans (if_neg hb), completed_rti s 2⟩
  case pending =>
    rw [hipend]
    exact getLsbD_clearLowestPending ((lowestPending_eq_some_iff _ i).mpr ⟨hset, hi, hlow⟩) b
  case none =>
    rw [hipend]
    exact clearLowestPending_of_none ((lowestPending_eq_none_iff _).mpr hclear)

end Sys2Proof.Machine
end

section
/-! Family 60_exceptions.md: misaligned accesses (R333), the arbiter (R346), and the faults found before execute
(R331 to R336). -/

namespace Sys2Proof.Machine

/-! ## Misaligned accesses (R333) -/

/-- Whatever was to follow a misaligned access, the instruction is abandoned. -/
theorem runInstr_bind_misaligned {α : Type} (width : Nat) (s : State) (a : Word) (f : α → Res (Signal × State)) :
    Next (runInstr width s ((Res.misaligned a).bind f)) fun t => Abandoned s t width :=
  ⟨_, runInstr_misaligned width s a, abandoned_misaligned s width⟩

section
variable {ea : Word} {size : Size} (ha : ea.toNat % sizeBytes size ≠ 0)
include ha

theorem aligned_sizeBytes_eq_false : aligned ea (sizeBytes size) = false :=
  Bool.eq_false_iff.mpr (mt (aligned_iff ea _).mp ha)

theorem aligned_sizeAccess_eq_false (hz : size ≠ .double) : aligned ea (accessBytes (sizeAccess size)) = false := by
  rw [accessBytes_sizeAccess hz, aligned_sizeBytes_eq_false ha]

theorem not_aligned_double (hz : size = .double) : ¬ aligned ea 8 = true := by
  subst hz
  exact Bool.eq_false_iff.mp (aligned_sizeBytes_eq_false ha)

theorem loadN_misaligned (s : State) (rd : RegIdx) : loadN s ea size rd = .misaligned ea := by
  by_cases hz : size = .double
  · rw [loadN, if_pos hz, if_neg (not_aligned_double ha hz)]
  · rw [loadN, if_neg hz, memRead_misaligned s _ (aligned_sizeAccess_eq_false ha hz), Res.misaligned_bind]

theorem storeN_misaligned (s : State) (d0 d1 : Word) : storeN s ea size d0 d1 = .misaligned ea := by
  by_cases hz : size = .double
  · rw [storeN, if_pos hz, if_neg (not_aligned_double ha hz)]
  · rw [storeN, if_neg hz, memWrite_misaligned s _ _ (aligned_sizeAccess_eq_false ha hz)]

end

/-- What each store form runs (R228 to R231). -/
def Transfer.store (x : Transfer) (s : State) : Host.Outcome State Fault Refusal :=
  runInstr x.width s ((storeN s x.ea x.size (s.reg x.rd) (storeHigh s x.rd x.size)).bind fun t =>
    .ok (.next, x.setBase t))

theorem exec_of_storeForm {s : State} {i : Instr} {x : Transfer} (h : storeForm s i = some x) :
    exec i s = x.store s := by
  cases i with
  | strIndex16 rd rn rm size => cases h; rfl
  | strIndex32 rd rn rm size sub => cases h; rfl
  | strDisp16 rd rn imm size => cases h; rfl
  | strDisp32 rd rn imm size sub => cases h; rfl
  | strPost16 rd rn rm size => cases h; rfl
  | strPost32 rd rn rm size sub => cases h; rfl
  | strDispPost rd rn imm size sub => cases h; rfl
  | _ => cases h

/-- Settles O35: in each family the access is the first thing done, and it is misaligned. -/
theorem misalignedIsAbandoned : Obligations.MisalignedIsAbandoned := by
  refine ⟨fun s i x hform ha => ?transfer, fun s rd rn rm sub ha => ?testset⟩
  case transfer =>
    rcases hform with ⟨hload, hbase⟩ | hstore
    · rw [exec_of_loadForm hload hbase, Transfer.load, loadN_misaligned ha]
      exact runInstr_bind_misaligned x.width s x.ea _
    · rw [exec_of_storeForm hstore, Transfer.store, storeN_misaligned ha]
      exact runInstr_bind_misaligned x.width s x.ea _
  case testset =>
    rw [exec_testset, testSet_misaligned _ (mt (aligned_iff _ 4).mp ha)]
    exact runInstr_bind_misaligned 4 s _ _

/-! ## The level the arbiter takes (R346) -/

theorem nonePending_iff (ipend : Word) (i : Nat) :
    nonePending ipend i = true ↔ ∀ j, j ≤ i → ipend.getLsbD j = false := by
  simp only [nonePending, List.all_eq_true, List.mem_range, Nat.lt_succ_iff, Bool.not_eq_true']

/-- The arbiter's test of a level (`deliverable_of_not_gid`). -/
def levelTest (x : ECore) (i : Nat) : Bool :=
  (x.ctl .ilat).getLsbD i && !(x.ctl .imask).getLsbD i && nonePending (x.ctl .ipend) i

theorem levelTest_iff {x : ECore} {i : Nat} (hi : i < 9) : levelTest x i = true ↔ Ready x i := by
  rw [Ready, and_iff_right hi, levelTest, Bool.and_eq_true, Bool.and_eq_true, Bool.not_eq_true', nonePending_iff,
    and_assoc]

theorem not_levelTest_iff {x : ECore} {i : Nat} (hi : i < 9) : (!levelTest x i) = true ↔ ¬ Ready x i := by
  rw [← levelTest_iff hi, Bool.not_eq_true', Bool.not_eq_true]

theorem deliverable_of_gid {x : ECore} (h : (x.ctl .status).getLsbD bitGid = true) : deliverable x = none := if_pos h

section
variable {x : ECore} (hgid : (x.ctl .status).getLsbD bitGid = false)
include hgid

theorem deliverable_of_not_gid : deliverable x = (List.range 9).find? (levelTest x) :=
  if_neg (Bool.eq_false_iff.mp hgid)

theorem deliverable_eq_some_iff (i : Nat) : deliverable x = some i ↔ Ready x i ∧ ∀ j, j < i → ¬ Ready x j := by
  rw [deliverable_of_not_gid hgid, List.find?_range_eq_some, List.mem_range]
  constructor
  · rintro ⟨htest, hi, hlow⟩
    exact ⟨(levelTest_iff hi).mp htest, fun j hj => (not_levelTest_iff (hj.trans hi)).mp (hlow j hj)⟩
  · rintro ⟨hready, hlow⟩
    have hi : i < 9 := hready.1
    exact ⟨(levelTest_iff hi).mpr hready, hi, fun j hj => (not_levelTest_iff (hj.trans hi)).mpr (hlow j hj)⟩

theorem deliverable_eq_none_iff_not_ready : deliverable x = none ↔ ∀ i, ¬ Ready x i := by
  rw [deliverable_of_not_gid hgid, List.find?_range_eq_none]
  exact ⟨fun hall i hready => (not_levelTest_iff hready.1).mp (hall i hready.1) hready,
    fun hall i hi => (not_levelTest_iff hi).mpr (hall i)⟩

end

theorem deliverable_eq_none_iff (x : ECore) : deliverable x = none ↔ Quiet x := by
  cases hgid : (x.ctl .status).getLsbD bitGid with
  | true => exact iff_of_true (deliverable_of_gid hgid) (.inl hgid)
  | false => rw [deliverable_eq_none_iff_not_ready hgid, Quiet, hgid, or_iff_right Bool.false_ne_true]

/-! ## The entry of an interrupt (R346, R350) -/

/-- STATUS after an entry: GID set, KERNEL set where CONFIG says so, every other bit kept. -/
theorem getLsbD_entryStatus (cfg : Config) (x : ECore) (b : Nat) : (entryStatus cfg x).getLsbD b =
    if b = bitGid then true
    else if b = bitKernel then (x.ctl .status).getLsbD bitKernel || entersKernel cfg x
    else (x.ctl .status).getLsbD b := by
  rw [entryStatus, getLsbD_setBit _ _ _ _ (by decide)]
  congr 1
  cases entersKernel cfg x with
  | true => rw [if_pos rfl, getLsbD_setBit _ _ _ _ (by decide), Bool.or_true]
  | false =>
    rw [if_neg Bool.false_ne_true, Bool.or_false]
    split
    · next hb => rw [hb]
    · rfl

/-- The window after an entry: the five words it writes, and every other word as it was. -/
theorem word_enterInterrupt (cfg : Config) (x : ECore) (i k : Nat) : (enterInterrupt cfg x i).word k =
    if k = Ctl.index .pc then cfg.vectorBase + BitVec.ofNat 32 (4 * i)
    else if k = Ctl.index .status then entryStatus cfg x
    else if k = Ctl.index .ipend then setBit (x.ctl .ipend) i true
    else if k = Ctl.index .ilat then setBit (x.ctl .ilat) i false
    else if k = Ctl.index .iret then x.ctl .pc else x.word k := by
  simp only [← ECore.word_setCtl]
  rfl

section
variable (cfg : Config) (x : ECore) (i : Nat)

theorem ctl_pc_enterInterrupt : (enterInterrupt cfg x i).ctl .pc = cfg.vectorBase + BitVec.ofNat 32 (4 * i) :=
  word_enterInterrupt cfg x i (Ctl.index .pc)

theorem ctl_status_enterInterrupt : (enterInterrupt cfg x i).ctl .status = entryStatus cfg x :=
  word_enterInterrupt cfg x i (Ctl.index .status)

theorem ctl_ipend_enterInterrupt : (enterInterrupt cfg x i).ctl .ipend = setBit (x.ctl .ipend) i true :=
  word_enterInterrupt cfg x i (Ctl.index .ipend)

theorem ctl_ilat_enterInterrupt : (enterInterrupt cfg x i).ctl .ilat = setBit (x.ctl .ilat) i false :=
  word_enterInterrupt cfg x i (Ctl.index .ilat)

theorem ctl_iret_enterInterrupt : (enterInterrupt cfg x i).ctl .iret = x.ctl .pc :=
  word_enterInterrupt cfg x i (Ctl.index .iret)

theorem word_enterInterrupt_of_notMem {k : Nat}
    (hk : k ∉ [Ctl.index .iret, Ctl.index .pc, Ctl.index .ilat, Ctl.index .ipend, Ctl.index .status]) :
    (enterInterrupt cfg x i).word k = x.word k := by
  simp only [List.mem_cons, List.not_mem_nil, or_false, not_or] at hk
  obtain ⟨hiret, hpc, hilat, hipend, hstatus⟩ := hk
  rw [word_enterInterrupt, if_neg hpc, if_neg hstatus, if_neg hipend, if_neg hilat, if_neg hiret]

end

/-- The core after the entry is the one R346 and R350 describe. -/
theorem entered_enterInterrupt (cfg : Config) (x : ECore) {i : Nat} (hi : i < 9) :
    Entered cfg x (enterInterrupt cfg x i) i where
  iret := ctl_iret_enterInterrupt cfg x i
  pc := ctl_pc_enterInterrupt cfg x i
  ilat b := by
    rw [ctl_ilat_enterInterrupt, getLsbD_setBit _ _ _ _ (by omega)]
    by_cases hb : b = i
    · rw [if_pos hb, hb, bne_self_eq_false, Bool.false_and]
    · rw [if_neg hb, bne_iff_ne.mpr hb, Bool.true_and]
  ipend b := by
    rw [ctl_ipend_enterInterrupt, getLsbD_setBit _ _ _ _ (by omega)]
    by_cases hb : b = i
    · rw [if_pos hb, beq_iff_eq.mpr hb, Bool.true_or]
    · rw [if_neg hb, beq_false_of_ne hb, Bool.false_or]
  gid := by rw [ctl_status_enterInterrupt, getLsbD_entryStatus, if_pos rfl]
  kernel := by rw [ctl_status_enterInterrupt, getLsbD_entryStatus, if_neg (by decide), if_pos rfl]
  status b hgid hkernel := by rw [ctl_status_enterInterrupt, getLsbD_entryStatus, if_neg hgid, if_neg hkernel]
  words _ hk := word_enterInterrupt_of_notMem cfg x i hk
  mem := rfl
  idle := rfl
  outcome := ⟨rfl, rfl, rfl, rfl⟩

/-! ## The arbiter in the tick (R346, R355) -/

theorem update_of_deliverable {s : State} {i : Nat} (h : deliverable s.me = some i) :
    update s = some (s.modMe fun x => enterInterrupt s.cfg x i) := by
  rw [update, h]

theorem update_eq_none_iff (s : State) : update s = none ↔ Quiet s.me := by
  rw [← deliverable_eq_none_iff]
  cases h : deliverable s.me with
  | some i =>
    rw [update_of_deliverable h]
    exact iff_of_false (Option.some_ne_none _) (Option.some_ne_none _)
  | none => exact iff_of_true (by rw [update, h]) rfl

theorem frame_enterInterrupt (s : State) (i : Nat) : Frame s (s.modMe fun x => enterInterrupt s.cfg x i)
    [Ctl.index .iret, Ctl.index .pc, Ctl.index .ilat, Ctl.index .ipend, Ctl.index .status] :=
  frame_modMe s (fun x => enterInterrupt s.cfg x i) _ rfl fun _ hk => word_enterInterrupt_of_notMem s.cfg s.me i hk

theorem beginStep_eq_tick {s : State} (hgo : s.halting = false) (hagenda : s.agenda = []) :
    beginStep s = tick s := by
  rw [beginStep, hgo, if_neg Bool.false_ne_true, hagenda]

theorem step_of_beginStep_done {s t : State} (h : beginStep s = .done t) : step s = .next t := by
  rw [step, h]

theorem tick_of_update {s t : State} (h : update s = some t) : tick s = .done t := by
  rw [tick, h]

/-- Settles O11: what the arbiter takes is the first ready level, and its state is the core entered. -/
theorem interruptEntry : Obligations.InterruptEntry := by
  refine ⟨update_eq_none_iff, fun s i hgid hready hlow => ?_⟩
  have hupdate := update_of_deliverable ((deliverable_eq_some_iff hgid i).mpr ⟨hready, hlow⟩)
  refine ⟨_, hupdate, ?entered, frame_enterInterrupt s i, fun hgo hagenda => ?tick⟩
  case entered =>
    rw [State.me_modMe]
    exact entered_enterInterrupt s.cfg s.me hready.1
  case tick =>
    exact step_of_beginStep_done ((beginStep_eq_tick hgo hagenda).trans (tick_of_update hupdate))

/-! ## The tick up to the fetch (R355, R356) -/

/-- A quiet core that is awake, not in debug halt and active goes on to its program counter. -/
theorem tick_of_active {s : State} (hquiet : Quiet s.me) (hawake : s.me.idle = false)
    (hdebug : (s.ctl .debugStatus).getLsbD bitHalt = false) (hactive : s.flag bitActive = true) :
    tick s = if s.pc.getLsbD 0 then .done (halt s .invalidProgramCounter) else frontDecode s := by
  rw [tick, (update_eq_none_iff s).mpr hquiet, hawake, hdebug, hactive]
  rfl

theorem Running.beginStep_eq_frontDecode {s : State} (h : Running s) : beginStep s = frontDecode s := by
  rw [beginStep_eq_tick h.going h.agenda, tick_of_active h.quiet h.awake h.debug h.active, h.even,
    if_neg Bool.false_ne_true]

/-- A step whose tick ends in a halt with a notification. -/
theorem next_halted_of_beginStep {s : State} {n : Note} (h : beginStep s = .done (halt s n)) :
    Next (step s) fun t => Halted s t n :=
  ⟨_, step_of_beginStep_done h, halted_halt s n⟩

theorem Running.next_halted {s : State} {n : Note} (hrun : Running s) (h : frontDecode s = .done (halt s n)) :
    Next (step s) fun t => Halted s t n :=
  next_halted_of_beginStep (hrun.beginStep_eq_frontDecode.trans h)

/-! ## Fetch (R82, R121, R359) -/

/-- Both halfwords of an instruction at an even address are aligned. -/
theorem aligned_halves {a : Word} (h : a.getLsbD 0 = false) : aligned a 2 = true ∧ aligned (a + 2) 2 = true := by
  have heven : a.toNat % 2 = 0 := by
    rw [BitVec.getLsbD, Nat.testBit_zero] at h
    have hodd := of_decide_eq_false h
    omega
  exact ⟨(aligned_iff a 2).mpr heven, (aligned_iff _ 2).mpr (by bv_omega)⟩

section
variable {s : State} {h0 h1 : Half}

theorem fetch_first_invalid (heven : s.pc.getLsbD 0 = false) (ht : translate s.cfg s.self s.pc = .invalid) :
    fetch s = .memoryFault s.pc false s := by
  rw [fetch, memRead_invalid s (size := .b2) (aligned_halves heven).1 ht, Res.memoryFault_bind]

theorem fetch_half {f : Found} (hhalf : HalfAt s s.pc h0) (hd : decode16 s.cfg.decode h0 = some f) :
    fetch s = .ok (some f) := by
  obtain ⟨v, hread, rfl⟩ := hhalf
  rw [fetch, hread, Res.ok_bind, hd]

/-- Where the first halfword is no instruction, the second one is read. -/
theorem fetch_second (hhalf : HalfAt s s.pc h0) (hd : decode16 s.cfg.decode h0 = none) : fetch s =
    (memRead s s.self (s.pc + 2) .b2).bind fun v => .ok (decode32 s.cfg.decode (joinHalves h0 (lowHalf v))) := by
  obtain ⟨v, hread, rfl⟩ := hhalf
  rw [fetch, hread, Res.ok_bind, hd]

theorem fetch_second_invalid (heven : s.pc.getLsbD 0 = false) (hhalf : HalfAt s s.pc h0)
    (hd : decode16 s.cfg.decode h0 = none) (ht : translate s.cfg s.self (s.pc + 2) = .invalid) :
    fetch s = .memoryFault (s.pc + 2) false s := by
  rw [fetch_second hhalf hd, memRead_invalid s (size := .b2) (aligned_halves heven).2 ht, Res.memoryFault_bind]

theorem fetch_word (hhalf : HalfAt s s.pc h0) (hd : decode16 s.cfg.decode h0 = none)
    (hhalf' : HalfAt s (s.pc + 2) h1) : fetch s = .ok (decode32 s.cfg.decode (joinHalves h0 h1)) := by
  obtain ⟨v, hread, rfl⟩ := hhalf'
  rw [fetch_second hhalf hd, hread, Res.ok_bind]

/-- The fetch of an instruction of either length. -/
theorem fetch_found {f : Found} (hhalf : HalfAt s s.pc h0)
    (hd : decode16 s.cfg.decode h0 = some f ∨ (decode16 s.cfg.decode h0 = none ∧ HalfAt s (s.pc + 2) h1 ∧
      decode32 s.cfg.decode (joinHalves h0 h1) = some f)) : fetch s = .ok (some f) := by
  rcases hd with hshort | ⟨hnone, hhalf', hlong⟩
  · exact fetch_half hhalf hshort
  · rw [fetch_word hhalf hnone hhalf', hlong]

/-! ## The faults of fetch, decode and check (R332, R334, R335) -/

theorem frontDecode_of_memoryFault {a : Word} {w : Bool} {t : State} (h : fetch s = .memoryFault a w t) :
    frontDecode s = .done (halt t (.invalidMemoryAccess a w)) := by
  rw [frontDecode, h]

theorem frontDecode_of_none (h : fetch s = .ok none) : frontDecode s = .done (halt s .invalidInstruction) := by
  rw [frontDecode, h]

/-- An instruction that fails its check, of the tables or of an extension decoder. -/
theorem frontDecode_of_failed {f : Found} (h : fetch s = .ok (some f))
    (hf : (∃ i, f = .table i ∧ i.check = false) ∨ ∃ e, f = .ext e ∧ e.valid = false) :
    frontDecode s = .done (halt s .invalidEncoding) := by
  rcases hf with ⟨i, rfl, hcheck⟩ | ⟨e, rfl, hvalid⟩
  · simp only [frontDecode, h, hcheck, Bool.false_eq_true, if_false]
  · simp only [frontDecode, h, hvalid, Bool.false_eq_true, if_false]

end

/-- Settles O9: each fault is where the tick up to execute ends, in a halt of the state before it. -/
theorem faultsBeforeExecuteHalt : Obligations.FaultsBeforeExecuteHalt := by
  refine ⟨fun s hgo hagenda hquiet hawake hdebug hactive hodd => ?odd, fun s hrun ht => ?first,
    fun s h0 hrun hhalf hd ht => ?second, fun s h0 h1 hrun hhalf hd hhalf' hd' => ?undecodable,
    fun s f h0 h1 hrun hhalf hfail hd => ?failed⟩
  case odd =>
    apply next_halted_of_beginStep
    rw [beginStep_eq_tick hgo hagenda, tick_of_active hquiet hawake hdebug hactive, if_pos hodd]
  case first => exact hrun.next_halted (frontDecode_of_memoryFault (fetch_first_invalid hrun.even ht))
  case second => exact hrun.next_halted (frontDecode_of_memoryFault (fetch_second_invalid hrun.even hhalf hd ht))
  case undecodable => exact hrun.next_halted (frontDecode_of_none ((fetch_word hhalf hd hhalf').trans (congrArg _ hd')))
  case failed => exact hrun.next_halted (frontDecode_of_failed (fetch_found hhalf hd) hfail)

end Sys2Proof.Machine
end

section
/-! Family 70_reset_and_hazards.md: the state after reset (R390, R391, R393). -/

namespace Sys2Proof.Machine

/-- A map that lists nothing but the default reads as the empty map does, whichever keys it lists. -/
theorem mapGet_map_default {α : Type} (d : α) (ks : List Nat) (k : Nat) :
    mapGet d (ks.map fun j => (j, d)) k = d := by
  induction ks with
  | nil => rfl
  | cons j ks ih => rw [List.map_cons, mapGet, ih, ite_self]

/-- Every core, in the grid or outside it, is a core after reset. -/
@[simp] theorem State.core_resetFor (cfg : Config) (c : CoreId) : (State.resetFor cfg).core c = ECore.reset :=
  mapGet_map_default ECore.reset (gridKeys cfg) c.key

@[simp] theorem ECore.word_reset (k : Nat) : ECore.reset.word k = 0 := rfl

theorem ECore.byte_reset {w : RegWindow} {off : Nat} (hw : inWindow w off = false) : ECore.reset.byte w off = 0 :=
  ECore.byte_mem ECore.reset hw

@[simp] theorem State.byteOf_external_resetFor (cfg : Config) (off : Nat) :
    (State.resetFor cfg).byteOf (.external off) = 0 := rfl

theorem State.byteOf_core_resetFor {cfg : Config} (c : CoreId) {off : Nat} (hw : inWindow cfg.window off = false) :
    (State.resetFor cfg).byteOf (.core c off) = 0 :=
  (congrArg (·.byte cfg.window off) (State.core_resetFor cfg c)).trans (ECore.byte_reset hw)

/-- Settles O54: every core is `ECore.reset`, whose words, bytes and flags are all 0. -/
theorem resetState : Obligations.ResetState := by
  refine fun cfg => ⟨fun c k _ => ?word, fun c _ hw => State.byteOf_core_resetFor c hw,
    State.byteOf_external_resetFor cfg, fun c => ?flags, rfl⟩
  case word => rw [State.core_resetFor, ECore.word_reset]
  case flags => rw [State.core_resetFor]; exact ⟨rfl, rfl, rfl, rfl⟩

end Sys2Proof.Machine
end

section
/-! Family 30_encoding.md: what a table of rows makes of a word (R121 to R123, R145), the words of no row (R143),
don't-care bits (R141), the checks (R140), and the round trip of encoder and decoder. -/

namespace Sys2Proof

/-! ## The rows a word matches (R123) -/

section
variable {n : Nat}

/-- Do two rows ask for different values of a bit that both fix? -/
def TableRow.apart (r q : TableRow n) : Bool := r.bits &&& q.mask != q.bits &&& r.mask

theorem TableRow.not_both_of_apart {r q : TableRow n} (h : r.apart q = true) (w : BitVec n) :
    ¬(w &&& r.mask = r.bits ∧ w &&& q.mask = q.bits) := by
  rintro ⟨hr, hq⟩
  refine bne_iff_ne.mp h ?_
  rw [← hr, ← hq, BitVec.and_assoc, BitVec.and_assoc, BitVec.and_comm r.mask]

theorem lookupRow_eq_none_iff (t : List (TableRow n)) (w : BitVec n) :
    lookupRow t w = none ↔ ∀ r ∈ t, w &&& r.mask ≠ r.bits := by
  induction t with
  | nil => simp [lookupRow]
  | cons r t ih => by_cases h : w &&& r.mask = r.bits <;> simp [lookupRow, h, ih]

variable {t : List (TableRow n)} {w : BitVec n}

theorem exists_row_of_lookupRow {i : Instr} (h : lookupRow t w = some i) :
    ∃ r ∈ t, w &&& r.mask = r.bits ∧ r.build w = i := by
  induction t with
  | nil => cases h
  | cons r t ih =>
    rw [lookupRow] at h
    split at h
    case isTrue hr => exact ⟨r, List.mem_cons_self, hr, Option.some.inj h⟩
    case isFalse =>
      obtain ⟨q, hq, hb⟩ := ih h
      exact ⟨q, List.mem_cons_of_mem r hq, hb⟩

/-- In a table whose rows are apart the order is immaterial (R123). -/
theorem lookupRow_of_mem (ht : t.Pairwise fun r q => r.apart q = true) {r : TableRow n} (hr : r ∈ t)
    (hw : w &&& r.mask = r.bits) : lookupRow t w = some (r.build w) := by
  induction ht with
  | nil => cases hr
  | @cons q t hq _ ih =>
    rw [lookupRow]
    rcases List.mem_cons.mp hr with rfl | hmem
    · rw [if_pos hw]
    · rw [if_neg fun hqw => TableRow.not_both_of_apart (hq r hmem) w ⟨hqw, hw⟩, ih hmem]

theorem lookupRow_eq_some_iff (ht : t.Pairwise fun r q => r.apart q = true) (i : Instr) :
    lookupRow t w = some i ↔ ∃ r ∈ t, w &&& r.mask = r.bits ∧ r.build w = i := by
  refine ⟨exists_row_of_lookupRow, ?_⟩
  rintro ⟨r, hr, hw, rfl⟩
  exact lookupRow_of_mem ht hr hw

theorem exists_lookupRow_iff : (∃ i, lookupRow t w = some i) ↔ ∃ r ∈ t, w &&& r.mask = r.bits := by
  rw [← Option.ne_none_iff_exists', Ne, lookupRow_eq_none_iff]
  push Not
  rfl

end

theorem tables_apart : table16.Pairwise (fun r q => r.apart q = true) ∧ table32.Pairwise fun r q => r.apart q = true := by
  decide +kernel

theorem table16_apart : table16.Pairwise fun r q => r.apart q = true := tables_apart.1

theorem table32_apart : table32.Pairwise fun r q => r.apart q = true := tables_apart.2

/-! ## Extension decoders (R145) -/

section
variable {n : Nat}

theorem extLookup_eq_find? (x : ExtDecoder n) (w : BitVec n) :
    extLookup x w = x.find? fun r => w &&& r.mask == r.bits := by
  induction x with
  | nil => rfl
  | cons r x ih => by_cases h : w &&& r.mask = r.bits <;> simp [extLookup, h, ih]

theorem firstMatch_eq_findSome? (ds : List (ExtDecoder n)) (w : BitVec n) :
    firstMatch ds w = ds.findSome? (extLookup · w) := by
  induction ds with
  | nil => rfl
  | cons d ds ih =>
    rw [firstMatch, List.findSome?_cons, ih]
    cases extLookup d w <;> rfl

variable {x : ExtDecoder n} {ds : List (ExtDecoder n)} {w : BitVec n} {q : ExtRow n}

theorem extLookup_eq_none_iff : extLookup x w = none ↔ ∀ p ∈ x, w &&& p.mask ≠ p.bits := by
  simp [extLookup_eq_find?]

theorem extLookup_eq_some_iff : extLookup x w = some q ↔
    ∃ rows rows', x = rows ++ q :: rows' ∧ (∀ p ∈ rows, w &&& p.mask ≠ p.bits) ∧ w &&& q.mask = q.bits := by
  simp only [extLookup_eq_find?, List.find?_eq_some_iff_append, beq_iff_eq, Bool.not_eq_true', beq_eq_false_iff_ne]
  exact ⟨fun ⟨hq, rows, rows', hx, hrows⟩ => ⟨rows, rows', hx, hrows, hq⟩,
    fun ⟨rows, rows', hx, hrows, hq⟩ => ⟨hq, rows, rows', hx, hrows⟩⟩

/-- The first decoder that matches wins, and of it the first row that matches. -/
theorem firstMatch_eq_some_iff : firstMatch ds w = some q ↔ ∃ before x after rows rows',
    ds = before ++ x :: after ∧ (∀ y ∈ before, ∀ p ∈ y, w &&& p.mask ≠ p.bits) ∧
    x = rows ++ q :: rows' ∧ (∀ p ∈ rows, w &&& p.mask ≠ p.bits) ∧ w &&& q.mask = q.bits := by
  simp only [firstMatch_eq_findSome?, List.findSome?_eq_some_iff, extLookup_eq_none_iff, extLookup_eq_some_iff]
  exact ⟨fun ⟨before, x, after, hds, ⟨rows, rows', hx⟩, hbefore⟩ =>
      ⟨before, x, after, rows, rows', hds, hbefore, hx⟩,
    fun ⟨before, x, after, rows, rows', hds, hbefore, hx⟩ =>
      ⟨before, x, after, hds, ⟨rows, rows', hx⟩, hbefore⟩⟩

theorem firstMatch_append (ds es : List (ExtDecoder n)) (w : BitVec n) :
    firstMatch (ds ++ es) w = (firstMatch ds w).or (firstMatch es w) := by
  simp only [firstMatch_eq_findSome?, List.findSome?_append]

end

/-! ## The two decoders (R121): a table's instruction, an extension's, or none -/

section
variable (d : DecodeConfig)

theorem decode16_eq_table_iff (w : BitVec 16) (i : Instr) :
    decode16 d w = some (.table i) ↔ lookupRow d.table16 w = some i := by
  rw [decode16]
  cases lookupRow d.table16 w <;> simp

theorem decode32_eq_table_iff (w : BitVec 32) (i : Instr) :
    decode32 d w = some (.table i) ↔ lookupRow d.table32 w = some i := by
  rw [decode32]
  cases lookupRow d.table32 w <;> simp

theorem decode16_eq_ext_iff (w : BitVec 16) (e : ExtInstr) : decode16 d w = some (.ext e) ↔
    lookupRow d.table16 w = none ∧ ∃ q, firstMatch d.ext16 w = some q ∧ e = q.instr w 2 := by
  rw [decode16]
  cases lookupRow d.table16 w <;> simp [eq_comm]

theorem decode32_eq_ext_iff (w : BitVec 32) (e : ExtInstr) : decode32 d w = some (.ext e) ↔
    lookupRow d.table32 w = none ∧ ∃ q, firstMatch d.ext32 w = some q ∧ e = q.instr w 4 := by
  rw [decode32]
  cases lookupRow d.table32 w <;> simp [eq_comm]

variable {d}

theorem decode16_eq_none {w : BitVec 16} (ht : lookupRow d.table16 w = none) (hx : d.ext16 = []) :
    decode16 d w = none := by
  rw [decode16, ht, hx]
  rfl

theorem decode32_eq_none {w : BitVec 32} (ht : lookupRow d.table32 w = none) (hx : d.ext32 = []) :
    decode32 d w = none := by
  rw [decode32, ht, hx]
  rfl

/-- A decoder registered last takes no word from the table or from the decoders before it. -/
theorem decode16_register16 {w : BitVec 16} {f : Found} (x : ExtDecoder 16) (h : decode16 d w = some f) :
    decode16 (d.register16 x) w = some f := by
  cases f with
  | table i => exact (decode16_eq_table_iff _ w i).mpr ((decode16_eq_table_iff d w i).mp h)
  | ext e =>
    obtain ⟨ht, q, hq, he⟩ := (decode16_eq_ext_iff d w e).mp h
    refine (decode16_eq_ext_iff _ w e).mpr ⟨ht, q, ?_, he⟩
    rw [DecodeConfig.register16, firstMatch_append, hq, Option.some_or]

theorem decode32_register32 {w : BitVec 32} {f : Found} (x : ExtDecoder 32) (h : decode32 d w = some f) :
    decode32 (d.register32 x) w = some f := by
  cases f with
  | table i => exact (decode32_eq_table_iff _ w i).mpr ((decode32_eq_table_iff d w i).mp h)
  | ext e =>
    obtain ⟨ht, q, hq, he⟩ := (decode32_eq_ext_iff d w e).mp h
    refine (decode32_eq_ext_iff _ w e).mpr ⟨ht, q, ?_, he⟩
    rw [DecodeConfig.register32, firstMatch_append, hq, Option.some_or]

end

/-- Settles O2: the rows of R135 are pairwise apart, and the extension decoders are tried in their order. -/
theorem tableRowsDecodeAlone : Obligations.TableRowsDecodeAlone := by
  refine ⟨fun w i => ?rows16, fun w i => ?rows32, table16_apart.imp TableRow.not_both_of_apart,
    table32_apart.imp TableRow.not_both_of_apart, fun d w => ⟨?some16, fun e => ?ext16⟩,
    fun d w => ⟨?some32, fun e => ?ext32⟩, fun s x y => ⟨fun w f => decode16_register16 x,
    fun w f => decode32_register32 y⟩⟩
  case rows16 => exact (decode16_eq_table_iff ruleDecode w i).trans (lookupRow_eq_some_iff table16_apart i)
  case rows32 => exact (decode32_eq_table_iff ruleDecode w i).trans (lookupRow_eq_some_iff table32_apart i)
  case some16 => simp only [decode16_eq_table_iff, exists_lookupRow_iff]
  case some32 => simp only [decode32_eq_table_iff, exists_lookupRow_iff]
  case ext16 =>
    rw [decode16_eq_ext_iff, lookupRow_eq_none_iff]
    simp only [firstMatch_eq_some_iff, ExtRow.instr]
    grind
  case ext32 =>
    rw [decode32_eq_ext_iff, lookupRow_eq_none_iff]
    simp only [firstMatch_eq_some_iff, ExtRow.instr, BitVec.setWidth_eq]
    grind

end Sys2Proof
end

section
/-! Family 30_encoding.md, the words of no row (R122, R143), don't-care bits (R141), and the checks (R140). -/

namespace Sys2Proof

/-! ## Words that clash with every row (R122, R143) -/

section
variable {n len : Nat}

/-- Does a row not match a word that has `v` in the bits from `lo` on? -/
def TableRow.clashes (r : TableRow n) (lo : Nat) (v : BitVec len) : Bool :=
  v &&& r.mask.extractLsb' lo len != r.bits.extractLsb' lo len

theorem TableRow.not_match_of_clashes {r : TableRow n} {w : BitVec n} {lo : Nat} {v : BitVec len}
    (hv : w.extractLsb' lo len = v) (h : r.clashes lo v = true) : w &&& r.mask ≠ r.bits := by
  rintro hw
  refine bne_iff_ne.mp h ?_
  rw [← hv, ← hw, BitVec.extractLsb'_and]

variable {t : List (TableRow n)} {w : BitVec n}

theorem lookupRow_none_of_clashes {lo : Nat} {v : BitVec len} (hv : w.extractLsb' lo len = v)
    (h : (t.all fun r => r.clashes lo v) = true) : lookupRow t w = none :=
  (lookupRow_eq_none_iff t w).mpr fun r hr => TableRow.not_match_of_clashes hv (List.all_eq_true.mp h r hr)

theorem lookupRow_none_of_clashes_or {len' lo lo' : Nat} {v : BitVec len} {v' : BitVec len'}
    (hv : w.extractLsb' lo len = v) (hv' : w.extractLsb' lo' len' = v')
    (h : (t.all fun r => r.clashes lo v || r.clashes lo' v') = true) : lookupRow t w = none :=
  (lookupRow_eq_none_iff t w).mpr fun r hr => (Bool.or_eq_true_iff.mp (List.all_eq_true.mp h r hr)).elim
    (TableRow.not_match_of_clashes hv) (TableRow.not_match_of_clashes hv')

theorem extractLsb'_extractLsb' (w : BitVec n) {lo i m : Nat} (h : i + len ≤ m) :
    (w.extractLsb' lo m).extractLsb' i len = w.extractLsb' (lo + i) len := by
  refine BitVec.eq_of_getLsbD_eq fun j hj => ?_
  simp only [BitVec.getLsbD_extractLsb', hj, decide_true, Bool.true_and, Nat.add_assoc, show i + j < m by omega]

theorem extractLsb'_one (w : BitVec n) (i : Nat) : w.extractLsb' i 1 = BitVec.ofBool (w.getLsbD i) := by
  refine BitVec.eq_of_getLsbD_eq fun j hj => ?_
  obtain rfl : j = 0 := by omega
  simp

end

/-- The low nibbles of the 32-bit words (R122). -/
def wideNibbles : List (BitVec 4) := [0b1000#4, 0b1001#4, 0b1011#4, 0b1100#4, 0b1101#4, 0b1111#4]

/-- Each row fixes the low nibble of its words, to one of its own length. -/
theorem tables_clash_by_length : (∀ v ∈ wideNibbles, (table16.all fun r => r.clashes 0 v) = true) ∧
    ∀ v ∉ wideNibbles, (table32.all fun r => r.clashes 0 v) = true := by decide +kernel

theorem lookupRow_table16_wide {w : BitVec 16} (h : w.extractLsb' 0 4 ∈ wideNibbles) :
    lookupRow table16 w = none :=
  lookupRow_none_of_clashes rfl (tables_clash_by_length.1 _ h)

theorem lookupRow_table32_narrow {w : BitVec 32} (h : w.extractLsb' 0 4 ∉ wideNibbles) :
    lookupRow table32 w = none :=
  lookupRow_none_of_clashes rfl (tables_clash_by_length.2 _ h)

/-- The bits from `lo` on of two neighbouring fields are the two fields. -/
theorem extractLsb'_eq_append {n lo k l : Nat} {w : BitVec n} {v : BitVec k} (h : w.extractLsb' lo k = v) :
    w.extractLsb' lo (l + k) = w.extractLsb' (lo + k) l ++ v := by
  rw [← h, BitVec.extractLsb'_append_extractLsb'_eq_extractLsb' rfl]

section
variable {w : BitVec 16} {v : BitVec 32}

theorem decode16_rule_none (h : lookupRow table16 w = none) : decode16 ruleDecode w = none := decode16_eq_none h rfl

theorem decode32_rule_none (h : lookupRow table32 v = none) : decode32 ruleDecode v = none := decode32_eq_none h rfl

end

/-- Settles O3: in each region every row of the table clashes with some of the bits that make it up. -/
theorem undefinedWordsMatchNothing : Obligations.UndefinedWordsMatchNothing := by
  refine ⟨fun w h => decode16_rule_none (lookupRow_table16_wide h),
    fun w h => decode32_rule_none (lookupRow_table32_narrow h), fun w h0 h4 h6 => decode16_rule_none ?imm16,
    fun w h0 h8 h4 => decode16_rule_none ?special16, fun w h0 h22 => decode32_rule_none ?load22,
    fun w h0 h21 h4 => decode32_rule_none ?testset, fun w h0 h4 h16 => decode32_rule_none ?movImm,
    fun w h0 h4 h6 => decode32_rule_none ?imm32, fun w h0 h16 => decode32_rule_none ?group,
    fun w h0 h16 h8 h4 => decode32_rule_none ?special32⟩
  case imm16 =>
    have clash : ∀ v : BitVec 3, v.getLsbD 0 = true → v.getLsbD 2 = true →
        (table16.all fun r => r.clashes 0 3#4 || r.clashes 4 v) = true := by decide +kernel
    refine lookupRow_none_of_clashes_or h0 rfl (clash (w.extractLsb' 4 3) ?_ ?_)
    · simpa using h4
    · simpa using h6
  case special16 =>
    have clash : ∀ v : BitVec 6, v ∉ [0b010000#6, 0b010001#6, 0b010100#6, 0b010101#6, 0b011000#6, 0b011001#6,
        0b011010#6, 0b011011#6, 0b011100#6, 0b011101#6, 0b011110#6, 0b011111#6, 0b111001#6, 0b111100#6, 0b111110#6] →
        v.extractLsb' 4 2 ≠ 0b00#2 → (table16.all fun r => r.clashes 0 2#4 || r.clashes 4 v) = true := by
      decide +kernel
    refine lookupRow_none_of_clashes_or h0 rfl (clash _ h4 ?_)
    rwa [extractLsb'_extractLsb' w (by decide)]
  case load22 =>
    have clash : (table32.all fun r => r.clashes 0 9#4 || r.clashes 22 1#1) = true := by decide +kernel
    exact lookupRow_none_of_clashes_or h0 ((extractLsb'_one w 22).trans (by rw [h22]; rfl)) clash
  case testset =>
    have clash : ∀ v : BitVec 3, v ≠ 0b100#3 →
        (table32.all fun r => r.clashes 0 (v ++ 9#4) || r.clashes 21 1#2) = true := by decide +kernel
    exact lookupRow_none_of_clashes_or (extractLsb'_eq_append h0) h21 (clash _ h4)
  case movImm =>
    have clash : ∀ v : BitVec 4, v ≠ 2#4 → (table32.all fun r => r.clashes 0 11#5 || r.clashes 16 v) = true := by
      decide +kernel
    have h5 : w.extractLsb' 0 5 = 11#5 := by
      refine (extractLsb'_eq_append (l := 1) h0).trans ?_
      rw [extractLsb'_one w 4, h4]
      rfl
    exact lookupRow_none_of_clashes_or h5 rfl (clash _ h16)
  case imm32 =>
    have clash : ∀ v : BitVec 3, v.getLsbD 0 = true → v.getLsbD 2 = true →
        (table32.all fun r => r.clashes 0 11#4 || r.clashes 4 v) = true := by decide +kernel
    refine lookupRow_none_of_clashes_or h0 rfl (clash (w.extractLsb' 4 3) ?_ ?_)
    · simpa using h4
    · simpa using h6
  case group =>
    have clash : ∀ v : BitVec 4, v ∉ [0b0010#4, 0b0110#4, 0b0111#4, 0b1010#4, 0b1110#4] →
        (table32.all fun r => r.clashes 0 15#4 || r.clashes 16 v) = true := by decide +kernel
    exact lookupRow_none_of_clashes_or h0 rfl (clash _ h16)
  case special32 =>
    have clash : ∀ v : BitVec 6, v ∉ [0b010000#6, 0b010001#6, 0b010100#6, 0b010101#6] → v.extractLsb' 4 2 ≠ 0b00#2 →
        (table32.all fun r => r.clashes 0 (v ++ 15#4) || r.clashes 16 2#4) = true := by decide +kernel
    refine lookupRow_none_of_clashes_or (extractLsb'_eq_append h0) h16 (clash _ h4 ?_)
    rwa [extractLsb'_extractLsb' w (by decide)]

/-! ## Don't-care bits (R141) -/

section
variable {n : Nat} {w v m b care : BitVec n}

/-- Two words that agree but for the bits of `care` agree on every mask off those bits. -/
theorem and_eq_of_agree (h : (w ^^^ v) &&& ~~~care = 0) (hm : m &&& care = 0) : v &&& m = w &&& m := by
  refine BitVec.eq_of_getLsbD_eq fun i hi => ?_
  have hbit := congrArg (·.getLsbD i) h
  have hmask := congrArg (·.getLsbD i) hm
  simp only [BitVec.getLsbD_and, BitVec.getLsbD_xor, BitVec.getLsbD_not, hi, decide_true, Bool.true_and,
    BitVec.ofNat_eq_ofNat, BitVec.getLsbD_zero] at hbit hmask ⊢
  revert hbit hmask
  cases w.getLsbD i <;> cases v.getLsbD i <;> cases m.getLsbD i <;> cases care.getLsbD i <;> simp

theorem extractLsb'_eq_of_agree (h : (w ^^^ v) &&& ~~~care = 0) {lo len : Nat}
    (hg : care.extractLsb' lo len = 0) : v.extractLsb' lo len = w.extractLsb' lo len := by
  refine BitVec.eq_of_getLsbD_eq fun i hi => ?_
  have hbit := congrArg (·.getLsbD (lo + i)) h
  have hcare := congrArg (·.getLsbD i) hg
  by_cases hlt : lo + i < n
  · simp only [BitVec.getLsbD_extractLsb', BitVec.getLsbD_and, BitVec.getLsbD_xor, BitVec.getLsbD_not, hi, hlt,
      decide_true, Bool.true_and, BitVec.ofNat_eq_ofNat, BitVec.getLsbD_zero] at hbit hcare ⊢
    revert hbit
    rw [hcare]
    cases w.getLsbD (lo + i) <;> cases v.getLsbD (lo + i) <;> simp
  · simp only [BitVec.getLsbD_extractLsb', BitVec.getLsbD_of_ge _ _ (Nat.le_of_not_lt hlt)]

/-- Are the bits of a field all off `care`? -/
def fieldOff (care : BitVec n) (f : Field) : Bool := f.all fun g => care.extractLsb' g.lo g.len == 0

theorem getField_eq_of_agree (h : (w ^^^ v) &&& ~~~care = 0) (k : Nat) {f : Field} (hf : fieldOff care f = true) :
    getField k v f = getField k w f := by
  induction f with
  | nil => rfl
  | cons g f ih =>
    rw [fieldOff, List.all_cons, Bool.and_eq_true, beq_iff_eq] at hf
    rw [getField, getField, ih hf.2, extractLsb'_eq_of_agree h hf.1]

/-- Does a row either clash with the words of a region, those with `w &&& m = b`, or read none of the bits of `care`,
by its mask or by its fields? -/
def TableRow.ignores (r : TableRow n) (m b care : BitVec n) : Bool :=
  b &&& r.mask != r.bits &&& m || (r.mask &&& care == 0 && r.fields.all (fieldOff care))

theorem fieldOff_getD {fs : List Field} (h : fs.all (fieldOff care) = true) (j : Nat) :
    fieldOff care (fs.getD j []) = true := by
  rcases lt_or_ge j fs.length with hj | hj
  · rw [List.getD_eq_getElem _ _ hj]
    exact List.all_eq_true.mp h _ (List.getElem_mem hj)
  · rw [List.getD_eq_default _ _ hj]
    rfl

theorem lookupRow_eq_of_agree {t : List (TableRow n)} (h : (w ^^^ v) &&& ~~~care = 0) (hw : w &&& m = b)
    (hm : m &&& care = 0) (ht : (t.all fun r => r.ignores m b care) = true) : lookupRow t v = lookupRow t w := by
  induction t with
  | nil => rfl
  | cons r t ih =>
    have hv : v &&& m = b := (and_eq_of_agree h hm).trans hw
    rw [List.all_cons, Bool.and_eq_true] at ht
    rw [lookupRow, lookupRow, ih ht.2]
    rcases Bool.or_eq_true_iff.mp ht.1 with hclash | hoff
    · have clash : ∀ u : BitVec n, u &&& m = b → ¬ u &&& r.mask = r.bits := fun u hu hr => by
        refine bne_iff_ne.mp hclash ?_
        rw [← hu, ← hr, BitVec.and_assoc, BitVec.and_assoc, BitVec.and_comm m]
      rw [if_neg (clash v hv), if_neg (clash w hw)]
    · rw [Bool.and_eq_true, beq_iff_eq] at hoff
      have hbuild : r.build v = r.build w := by
        refine congrArg r.op.build (funext fun k => funext fun j => ?_)
        exact getField_eq_of_agree h k (fieldOff_getD hoff.2 j)
      rw [and_eq_of_agree h hoff.1, hbuild]

end

theorem decode16_eq_of_agree {w v : BitVec 16} (m b care : BitVec 16) (hw : w &&& m = b)
    (h : (w ^^^ v) &&& ~~~care = 0) (hm : m &&& care = 0) (ht : (table16.all fun r => r.ignores m b care) = true) :
    decode16 ruleDecode v = decode16 ruleDecode w := by
  rw [decode16, decode16, show ruleDecode.table16 = table16 from rfl, lookupRow_eq_of_agree h hw hm ht]
  rfl

theorem decode32_eq_of_agree {w v : BitVec 32} (m b care : BitVec 32) (hw : w &&& m = b)
    (h : (w ^^^ v) &&& ~~~care = 0) (hm : m &&& care = 0) (ht : (table32.all fun r => r.ignores m b care) = true) :
    decode32 ruleDecode v = decode32 ruleDecode w := by
  rw [decode32, decode32, show ruleDecode.table32 = table32 from rfl, lookupRow_eq_of_agree h hw hm ht]
  rfl

/-- Settles O4: in each region every row of the table clashes with it or reads none of the don't-care bits. -/
theorem dontCareBitsAreIgnored : Obligations.DontCareBitsAreIgnored := by
  have special : ([0x0182#16, 0x0192#16, 0x01A2#16, 0x01B2#16, 0x01C2#16, 0x01D2#16, 0x01F2#16, 0x0392#16,
      0x03C2#16].all fun b => table16.all fun r => r.ignores 0x03FF#16 b 0xFC00#16) = true := by decide +kernel
  have alu : ([0x000A000F#32, 0x0007000F#32].all fun b =>
      table32.all fun r => r.ignores 0x000F000F#32 b 0x00700000#32) = true := by decide +kernel
  have shift : ([0x0006000F#32, 0x000E000F#32].all fun b =>
      table32.all fun r => r.ignores 0x000F000F#32 b 0x03F00000#32) = true := by decide +kernel
  refine ⟨fun w v hw h => decode16_eq_of_agree _ _ _ hw h (by decide) (by decide +kernel),
    fun w v hw h => decode16_eq_of_agree _ _ _ hw h (by decide) (by decide +kernel),
    fun w v hw h => decode16_eq_of_agree 0x03FF#16 _ _ rfl h (by decide) (List.all_eq_true.mp special _ hw),
    fun w v hw h => decode32_eq_of_agree _ _ _ hw h (by decide) (by decide +kernel),
    fun w v hw h => decode32_eq_of_agree _ _ _ hw h (by decide) (by decide +kernel),
    fun w v hw h => decode32_eq_of_agree _ _ _ hw h (by decide) (by decide +kernel),
    fun w v hw h => decode32_eq_of_agree 0x000F000F#32 _ _ rfl h (by decide) (List.all_eq_true.mp alu _ hw),
    fun w v hw h => decode32_eq_of_agree 0x000F000F#32 _ _ rfl h (by decide) (List.all_eq_true.mp shift _ hw),
    fun w v hw h => decode32_eq_of_agree _ _ _ hw h (by decide) (by decide +kernel),
    fun w v hw h => decode32_eq_of_agree _ _ _ hw h (by decide) (by decide +kernel),
    fun w v hw h => decode32_eq_of_agree _ _ _ hw h (by decide) (by decide +kernel),
    fun w v hw h => decode32_eq_of_agree _ _ _ hw h (by decide) (by decide +kernel)⟩

end Sys2Proof
end

section
/-! The end of an instruction, field by field (R361 to R363). -/

namespace Sys2Proof.Machine

section
variable (width : Nat) (a : Word) (sig : Signal) (t : State)

/-- The control registers at the end of an instruction: the hardware loop takes precedence over the signal. -/
theorem ctl_applySignal (r : Ctl) : (applySignal width a sig t).ctl r =
    if a = t.ctl .le ∧ t.ctl .lc ≠ 0 then
      if r = .pc then t.ctl .ls else if r = .lc then t.ctl .lc - 1 else t.ctl r
    else if r = .pc ∧ sig ≠ .none then t.pc + BitVec.ofNat 32 width else t.ctl r := by
  unfold applySignal
  by_cases h : a = t.ctl .le ∧ t.ctl .lc ≠ 0
  · rw [if_pos ((loopWraps_iff a t).mpr h), if_pos h, State.setPc, State.ctl_setCtl, State.ctl_setCtl]
  · rw [if_neg (mt (loopWraps_iff a t).mp h), if_neg h]
    cases sig with
    | none => rw [if_neg fun hr => hr.2 rfl]
    | next => simp only [State.setPc, State.ctl_setCtl, ne_eq, reduceCtorEq, not_false_eq_true, and_true]
    | idle => simp only [State.setPc, State.ctl_setCtl, ne_eq, reduceCtorEq, not_false_eq_true, and_true]

theorem ctl_applyIdle_any (r : Ctl) : (applyIdle sig t).ctl r = t.ctl r := by
  cases sig with
  | none => rfl
  | next => rfl
  | idle => exact ctl_applyIdle t r

theorem ctl_complete_eq (r : Ctl) : (complete width a sig t).ctl r =
    if a = t.ctl .le ∧ t.ctl .lc ≠ 0 then
      if r = .pc then t.ctl .ls else if r = .lc then t.ctl .lc - 1 else t.ctl r
    else if r = .pc ∧ sig ≠ .none then t.pc + BitVec.ofNat 32 width else t.ctl r := by
  rw [complete, State.ctl_note, ctl_applySignal]
  simp only [ctl_applyIdle_any, State.pc]

variable {a t}

theorem complete_of_loop (h : a = t.ctl .le ∧ t.ctl .lc ≠ 0) :
    (complete width a sig t).pc = t.ctl .ls ∧ (complete width a sig t).ctl .lc = t.ctl .lc - 1 := by
  rw [State.pc, ctl_complete_eq, ctl_complete_eq, if_pos h, if_pos h]
  exact ⟨rfl, rfl⟩

theorem complete_of_not_loop (h : ¬(a = t.ctl .le ∧ t.ctl .lc ≠ 0)) : (complete width a sig t).ctl .lc = t.ctl .lc ∧
    (complete width a sig t).pc = if sig = .none then t.pc else t.pc + BitVec.ofNat 32 width := by
  rw [State.pc, ctl_complete_eq, ctl_complete_eq, if_neg h, if_neg h]
  cases sig <;> exact ⟨rfl, rfl⟩

variable (a t)

theorem idle_complete : (complete width a sig t).me.idle = (t.me.idle || sig == .idle) := by
  cases sig with
  | none => rw [(outcome_complete width a (by decide) t).idle]; simp
  | next => rw [(outcome_complete width a (by decide) t).idle]; simp
  | idle => rw [complete_idle, (outcome_complete width a (by decide) _).idle, me_applyIdle]; simp

end

end Sys2Proof.Machine
end

section
/-! Family 30_encoding.md, the checks (R140) and the round trip of encoder and decoder (R121, R127, R135), and what a
step of a running core runs (R355, R359). -/

namespace Sys2Proof

open Machine

/-! ## The checks (R140) -/

theorem checkUnary_eq_false_iff {n : Nat} (rn rm : BitVec n) : checkUnary rn rm = false ↔ rm ≠ rn :=
  beq_eq_false_iff_ne

theorem checkPair_eq_false_iff {n : Nat} (rd : BitVec n) (size : Size) :
    checkPair rd size = false ↔ size = .double ∧ rd.toNat % 2 = 1 := by
  have hodd : rd.getLsbD 0 = decide (rd.toNat % 2 = 1) := by rw [BitVec.getLsbD, Nat.testBit_zero]
  rw [checkPair, hodd]
  cases size <;> simp

theorem checkMove_eq_false_iff (cond : Cond) : checkMove cond = false ↔ cond = .link := by
  cases cond <;> decide

/-- Of the loads and stores the check is K2. -/
theorem check_of_transfer {s : State} {i : Instr} {x : Transfer} (h : loadForm s i = some x ∨ storeForm s i = some x) :
    i.check = false ↔ x.size = .double ∧ x.rd.toNat % 2 = 1 := by
  rcases h with h | h
  · cases i <;> cases h <;> simp only [Instr.check, checkPair_eq_false_iff, lowReg_toNat]
  · cases i <;> cases h <;> simp only [Instr.check, checkPair_eq_false_iff, lowReg_toNat]

/-- Settles O5: the check of each instruction is that of K1, K2 or K3, or passes. -/
theorem checksAreTheThree : Obligations.ChecksAreTheThree := by
  intro i
  have transfer : ∀ x, (loadForm State.reset i = some x ∨ storeForm State.reset i = some x) → i.check = false →
      ∃ x, (loadForm State.reset i = some x ∨ storeForm State.reset i = some x) ∧ x.size = .double ∧
        x.rd.toNat % 2 = 1 := fun x hx h => ⟨x, hx, (check_of_transfer hx).mp h⟩
  constructor
  · intro h
    cases i
    case float16 rd rn rm => exact .inl ⟨rd, rn, rm, (checkUnary_eq_false_iff rn rm).mp h, .inl rfl⟩
    case fix16 rd rn rm => exact .inl ⟨rd, rn, rm, (checkUnary_eq_false_iff rn rm).mp h, .inr (.inl rfl)⟩
    case fabs16 rd rn rm => exact .inl ⟨rd, rn, rm, (checkUnary_eq_false_iff rn rm).mp h, .inr (.inr rfl)⟩
    case float32 rd rn rm => exact .inr (.inl ⟨rd, rn, rm, (checkUnary_eq_false_iff rn rm).mp h, .inl rfl⟩)
    case fix32 rd rn rm => exact .inr (.inl ⟨rd, rn, rm, (checkUnary_eq_false_iff rn rm).mp h, .inr (.inl rfl)⟩)
    case fabs32 rd rn rm => exact .inr (.inl ⟨rd, rn, rm, (checkUnary_eq_false_iff rn rm).mp h, .inr (.inr rfl)⟩)
    case movCond16 rd rn cond =>
      obtain rfl := (checkMove_eq_false_iff cond).mp h
      exact .inr (.inr (.inr (.inl ⟨rd, rn, rfl⟩)))
    case movCond32 rd rn cond =>
      obtain rfl := (checkMove_eq_false_iff cond).mp h
      exact .inr (.inr (.inr (.inr ⟨rd, rn, rfl⟩)))
    case ldrIndex16 | ldrIndex32 | ldrPost16 | ldrPost32 | ldrDisp16 | ldrDisp32 | ldrDispPost =>
      exact .inr (.inr (.inl (transfer _ (.inl rfl) h)))
    case strIndex16 | strIndex32 | strPost16 | strPost32 | strDisp16 | strDisp32 | strDispPost =>
      exact .inr (.inr (.inl (transfer _ (.inr rfl) h)))
    all_goals cases h
  · rintro (⟨rd, rn, rm, hne, rfl | rfl | rfl⟩ | ⟨rd, rn, rm, hne, rfl | rfl | rfl⟩ | ⟨x, hx, hodd⟩ | ⟨rd, rn, rfl⟩ |
      ⟨rd, rn, rfl⟩)
    case inr.inr.inl => exact (check_of_transfer hx).mpr hodd
    case inr.inr.inr.inl | inr.inr.inr.inr => rfl
    all_goals exact (checkUnary_eq_false_iff rn rm).mpr hne

/-! ## Fields placed and read again (R124) -/

section
variable {n k : Nat} (v : BitVec k)

theorem extractLsb'_place_same {lo : Nat} (h : lo + k ≤ n) : (place n v lo).extractLsb' lo k = v := by
  refine BitVec.eq_of_getLsbD_eq fun i hi => ?_
  simp only [place, BitVec.getLsbD_extractLsb', BitVec.getLsbD_shiftLeft, BitVec.getLsbD_setWidth, hi,
    Nat.add_sub_cancel_left, show lo + i < n by omega, show ¬ lo + i < lo by omega, show i < n by omega, decide_true,
    decide_false, Bool.not_false, Bool.true_and]

theorem extractLsb'_place_apart {lo lo' len : Nat} (h : lo + k ≤ lo' ∨ lo' + len ≤ lo) :
    (place n v lo).extractLsb' lo' len = 0#len := by
  refine BitVec.eq_of_getLsbD_eq fun i hi => ?_
  simp only [place, BitVec.getLsbD_extractLsb', BitVec.getLsbD_shiftLeft, BitVec.getLsbD_setWidth, BitVec.getLsbD_zero]
  by_cases hlo : lo' + i < lo
  · simp only [hlo, decide_true, Bool.not_true, Bool.and_false, Bool.false_and]
  · rw [BitVec.getLsbD_of_ge v _ (by omega), Bool.and_false, Bool.and_false, Bool.and_false]

theorem place_and_of_extract {lo : Nat} {m : BitVec n} (h : m.extractLsb' lo k = 0#k) : place n v lo &&& m = 0#n := by
  refine BitVec.eq_of_getLsbD_eq fun i hi => ?_
  simp only [place, BitVec.getLsbD_and, BitVec.getLsbD_shiftLeft, BitVec.getLsbD_setWidth, BitVec.getLsbD_zero]
  by_cases hlo : i < lo
  · simp only [hlo, decide_true, Bool.not_true, Bool.and_false, Bool.false_and]
  by_cases hk : i - lo < k
  · have hbit := congrArg (·.getLsbD (i - lo)) h
    simp only [BitVec.getLsbD_extractLsb', hk, decide_true, Bool.true_and, BitVec.getLsbD_zero,
      Nat.add_sub_cancel' (Nat.le_of_not_lt hlo)] at hbit
    rw [hbit, Bool.and_false]
  · rw [BitVec.getLsbD_of_ge v _ (by omega), Bool.and_false, Bool.and_false, Bool.false_and]

theorem join_parts (m l : Nat) (h : m + l = k) :
    (v.extractLsb' m l).setWidth k <<< m ||| (v.extractLsb' 0 m).setWidth k = v := by
  refine BitVec.eq_of_getLsbD_eq fun i hi => ?_
  simp only [BitVec.getLsbD_or, BitVec.getLsbD_shiftLeft, BitVec.getLsbD_setWidth, BitVec.getLsbD_extractLsb', hi,
    decide_true, Bool.true_and, Nat.zero_add]
  by_cases him : i < m
  · simp [him]
  · simp [him, show m + (i - m) = i by omega, show i - m < l by omega, show i - m < k by omega]

theorem getField_single {lo : Nat} (w : BitVec n) : getField k w [⟨lo, k⟩] = w.extractLsb' lo k := by
  simp [getField]

theorem getField_pair {lo lo' l l' : Nat} (w : BitVec n) : getField k w [⟨lo, l⟩, ⟨lo', l'⟩] =
    (w.extractLsb' lo l).setWidth k <<< l' ||| (w.extractLsb' lo' l').setWidth k := by
  simp [getField]

end

theorem condOf_condBits (c : Cond) : condOf (condBits c) = c := by cases c <;> rfl

theorem sizeOf_sizeBits (z : Size) : sizeOf (sizeBits z) = z := by cases z <;> rfl

theorem getLsbD_ofBool_zero (b : Bool) : (BitVec.ofBool b).getLsbD 0 = b := by cases b <;> rfl

/-! ## The row of an instruction, and its encoding under that row (R127, R135) -/

/-- The row that bears the name of an instruction's constructor: the names `Op` stand in the constructors' order. -/
def rowOf {n : Nat} (t : List (TableRow n)) (i : Instr) : Option (TableRow n) :=
  t.find? fun r => r.op.ctorIdx == i.ctorIdx

/-- A word that matches the row of an instruction. -/
def MatchesOwnRow (i : Instr) : Encoded → Prop
  | .half h => ∃ r, rowOf table16 i = some r ∧ h &&& r.mask = r.bits
  | .full w => ∃ r, rowOf table32 i = some r ∧ w &&& r.mask = r.bits

/-- A word that is an instruction under the instruction's row. -/
def BuildsOwnRow (i : Instr) : Encoded → Prop
  | .half h => ∃ r, rowOf table16 i = some r ∧ r.build h = i
  | .full w => ∃ r, rowOf table32 i = some r ∧ r.build w = i

/-- The operands of an encoding lie off the bits that its row fixes. -/
theorem encode_matches (i : Instr) : MatchesOwnRow i (encode i) := by
  cases i <;> refine ⟨_, rfl, ?_⟩
  all_goals simp only [placeReg, placeImm11, placeImm16, BitVec.and_or_distrib_right, place_and_of_extract,
    BitVec.reduceExtractLsb', BitVec.reduceAnd, BitVec.or_zero]

/-- Each operand of an encoding is read again where it was placed. -/
theorem encode_builds (i : Instr) : BuildsOwnRow i (encode i) := by
  cases i <;> refine ⟨_, rfl, ?_⟩
  all_goals simp (disch := decide) only [TableRow.build, Op.build, List.getD_cons_zero, List.getD_cons_succ, rd16, rn16,
    rm16, rd32, rn32, rm32, bitsAt, imm11, imm16, getField_single, getField_pair, placeReg, placeImm11, placeImm16,
    BitVec.extractLsb'_or, extractLsb'_place_same, extractLsb'_place_apart, BitVec.reduceExtractLsb', BitVec.or_zero,
    BitVec.zero_or, join_parts, condOf_condBits, sizeOf_sizeBits, getLsbD_ofBool_zero]

theorem lookupRow_encode_half {i : Instr} {h : BitVec 16} (he : encode i = .half h) :
    lookupRow table16 h = some i := by
  have hm := encode_matches i
  have hb := encode_builds i
  rw [he] at hm hb
  obtain ⟨r, hr, hbits⟩ := hm
  obtain ⟨q, hq, rfl⟩ := hb
  obtain rfl := Option.some.inj (hr.symm.trans hq)
  exact lookupRow_of_mem table16_apart (List.mem_of_find?_eq_some hr) hbits

theorem lookupRow_encode_full {i : Instr} {w : BitVec 32} (he : encode i = .full w) :
    lookupRow table32 w = some i := by
  have hm := encode_matches i
  have hb := encode_builds i
  rw [he] at hm hb
  obtain ⟨r, hr, hbits⟩ := hm
  obtain ⟨q, hq, rfl⟩ := hb
  obtain rfl := Option.some.inj (hr.symm.trans hq)
  exact lookupRow_of_mem table32_apart (List.mem_of_find?_eq_some hr) hbits

theorem width_of_encode_full {i : Instr} {w : BitVec 32} (he : encode i = .full w) : i.width = 4 := by
  cases i <;> cases he <;> rfl

/-! ## The halfwords of an encoding -/

theorem joinBytes_extract (h : BitVec 16) : joinBytes (h.extractLsb' 0 8) (h.extractLsb' 8 8) = h :=
  BitVec.extractLsb'_append_extractLsb' (w := 8) (len := 8)

theorem joinBytes_extract_low (w : BitVec 32) :
    joinBytes (w.extractLsb' 0 8) (w.extractLsb' 8 8) = w.extractLsb' 0 16 :=
  BitVec.extractLsb'_append_extractLsb'_eq_extractLsb' rfl

theorem joinBytes_extract_high (w : BitVec 32) :
    joinBytes (w.extractLsb' 16 8) (w.extractLsb' 24 8) = w.extractLsb' 16 16 :=
  BitVec.extractLsb'_append_extractLsb'_eq_extractLsb' rfl

theorem joinHalves_extract (w : BitVec 32) : joinHalves (w.extractLsb' 0 16) (w.extractLsb' 16 16) = w :=
  BitVec.extractLsb'_append_extractLsb' (w := 16) (len := 16)

/-- A word that a row of 32 bits matches has the low nibble of its length (R122). -/
theorem wideNibble_of_lookupRow {w : BitVec 32} {i : Instr} (h : lookupRow table32 w = some i) :
    w.extractLsb' 0 4 ∈ wideNibbles := by
  by_contra hn
  rw [lookupRow_table32_narrow hn] at h
  cases h

section
variable {d : DecodeConfig} {i : Instr} (h16 : d.table16 = table16) (h32 : d.table32 = table32)
  (hext : i.width = 4 → d.ext16 = [])

include h16 in
theorem decode16_encode_half {h : BitVec 16} (he : encode i = .half h) : decode16 d h = some (.table i) :=
  (decode16_eq_table_iff d h i).mpr (h16 ▸ lookupRow_encode_half he)

include h16 hext in
/-- No row of 16 bits takes the first halfword of a 32-bit instruction. -/
theorem decode16_encode_full {w : BitVec 32} (he : encode i = .full w) : decode16 d (w.extractLsb' 0 16) = none := by
  refine decode16_eq_none ?_ (hext (width_of_encode_full he))
  rw [h16]
  refine lookupRow_table16_wide ?_
  rw [extractLsb'_extractLsb' w (by decide)]
  exact wideNibble_of_lookupRow (lookupRow_encode_full he)

include h32 in
theorem decode32_encode_full {w : BitVec 32} (he : encode i = .full w) : decode32 d w = some (.table i) :=
  (decode32_eq_table_iff d w i).mpr (h32 ▸ lookupRow_encode_full he)

end

/-- Settles O6: a halfword is found in the table of 16 bits; the first halfword of a word is not, and the word is found
in that of 32 bits. -/
theorem decodeOfEncode : Obligations.DecodeOfEncode := by
  intro d i rest h16 h32 hext
  cases he : encode i with
  | half h =>
    have hbytes : i.bytes = [h.extractLsb' 0 8, h.extractLsb' 8 8] := congrArg Encoded.bytes he
    simp only [hbytes, List.cons_append, List.nil_append, decodeBytes, joinBytes_extract,
      decode16_encode_half h16 he]
  | full w =>
    have hbytes : i.bytes = wordBytes w := congrArg Encoded.bytes he
    rw [hbytes, wordBytes, List.cons_append, List.cons_append, List.cons_append, List.cons_append, List.nil_append,
      decodeBytes, joinBytes_extract_low, joinBytes_extract_high, decode16_encode_full h16 hext he]
    simp only [joinHalves_extract, decode32_encode_full h32 he]

/-- Settles O1: the decoder run on each word. -/
theorem specWordsDecode : Obligations.SpecWordsDecode := by
  refine ⟨?_, ?_, ?_, ?_, ?_, ?_, ?_, ?_, ?_, ?_, ?_, ?_, ?_, ?_, ?_, ?_, ?_⟩ <;> rfl

end Sys2Proof

namespace Sys2Proof.Machine

/-! ## What the step of a running core runs (R355, R359 to R362) -/

section
variable {s : State} {h0 h1 : Half} (hrun : Running s)
include hrun

theorem Running.step_of_fetch_table {i : Instr} (h : fetch s = .ok (some (.table i))) (hi : i.WellFormed) :
    step s = exec i s := by
  have hfront : frontDecode s = .run i s := by simp only [frontDecode, h, hi, if_true]
  simp only [step, hrun.beginStep_eq_frontDecode, hfront]

theorem Running.step_of_fetch_ext {e : ExtInstr} (h : fetch s = .ok (some (.ext e))) (he : e.valid = true) :
    step s = execExt e s := by
  have hfront : frontDecode s = .runExt e s := by simp only [frontDecode, h, he, if_true]
  simp only [step, hrun.beginStep_eq_frontDecode, hfront]

end

theorem runExt_ok {s u : State} {e : ExtInstr} {r : ExtReply} (h : extActs r.acts s = .ok u) :
    runExt e r s = .next (complete e.width s.pc r.signal u) := by
  rw [runExt, h, Res.ok_bind, runInstr_ok]

/-- Settles O7: the fetch finds the instruction, and the end of an extension instruction is that of any other. -/
theorem stepRunsTheDecoded : Obligations.StepRunsTheDecoded := by
  refine ⟨fun s f h0 h1 hrun hhalf hd => ⟨fun i hf hi => ?table, fun e hf he => ⟨extReply s e, ?ext⟩⟩,
    fun s u e r hacts => ⟨_, runExt_ok hacts, notes_complete _ _ _ _, ?idle, fun h => complete_of_loop _ _ h,
      fun h => complete_of_not_loop _ _ h, frame_complete _ _ _ _⟩⟩
  case table => exact hrun.step_of_fetch_table (hf ▸ fetch_found hhalf hd) hi
  case ext => exact hrun.step_of_fetch_ext (hf ▸ fetch_found hhalf hd) he
  case idle => rw [idle_complete, Bool.or_eq_true, beq_iff_eq]

/-! ## The bytes at `pc` (R82, R86) -/

theorem lowHalf_eq_joinBytes (v : Word) : lowHalf v = joinBytes (v.extractLsb' 0 8) (v.extractLsb' 8 8) := by
  rw [joinBytes_extract_low, lowHalf]
  exact (BitVec.setWidth_eq_extractLsb' (by decide))

/-- The halfword at an address is that of the two bytes there. -/
theorem halfAt_bytes {s : State} (hc : configOk s.cfg = true) {a : Word} (ha : aligned a 2 = true) {g : Target}
    (ht : translate s.cfg s.self a = g) (hg : g ≠ .invalid) :
    HalfAt s a (joinBytes (s.byteOf g) (s.byteOf (g.plus 1))) := by
  obtain ⟨v, hread, hbytes⟩ := memRead_bytes hc (size := .b2) ha (ht ▸ hg)
  have h0 : v.extractLsb' 0 8 = s.byteOf (g.plus 0) := ht ▸ hbytes 0 (by decide)
  have h1 : v.extractLsb' 8 8 = s.byteOf (g.plus 1) := ht ▸ hbytes 1 (by decide)
  have hplus : g.plus 0 = g := by cases g <;> rfl
  refine ⟨v, hread, ?_⟩
  rw [lowHalf_eq_joinBytes, h0, h1, hplus]

theorem Target.ne_invalid_of_plain {g : Target} {w : RegWindow} (h : g.plain w = true) : g ≠ .invalid := by
  rintro rfl
  cases h

/-- Settles O8: the halfwords at `pc` are those of the encoding, which decode to the instruction. -/
theorem stepRunsTheEncoded : Obligations.StepRunsTheEncoded := by
  intro s i g hrun hi hc h16 h32 hext ht hplain ht2 hbytes
  obtain ⟨ha0, ha1⟩ := aligned_halves hrun.even
  have hfirst := halfAt_bytes hc ha0 ht (Target.ne_invalid_of_plain hplain)
  have hplus : g.plus 0 = g := by cases g <;> rfl
  refine hrun.step_of_fetch_table ?_ hi
  cases he : encode i with
  | half h =>
    have hb : i.bytes = [h.extractLsb' 0 8, h.extractLsb' 8 8] := congrArg Encoded.bytes he
    simp only [hb] at hbytes
    have hb0 := hbytes 0 (by simp)
    have hb1 := hbytes 1 (by simp)
    rw [hplus] at hb0
    rw [hb0, hb1] at hfirst
    refine fetch_half hfirst ?_
    exact (congrArg _ (joinBytes_extract h)).trans (decode16_encode_half h16 he)
  | full w =>
    obtain ⟨ht', hplain'⟩ := ht2 (width_of_encode_full he)
    have hsecond := halfAt_bytes hc ha1 ht' (Target.ne_invalid_of_plain hplain')
    have hb : i.bytes = wordBytes w := congrArg Encoded.bytes he
    simp only [hb, wordBytes] at hbytes
    have hb0 := hbytes 0 (by simp)
    have hb1 := hbytes 1 (by simp)
    have hb2 := hbytes 2 (by simp)
    have hb3 := hbytes 3 (by simp)
    rw [hplus] at hb0
    rw [hb0, hb1] at hfirst
    rw [Target.plus_plus, hb2, hb3] at hsecond
    refine (fetch_word hfirst ?_ hsecond).trans (congrArg _ ?_)
    · exact (congrArg _ (joinBytes_extract_low w)).trans (decode16_encode_full h16 hext he)
    · refine (congrArg _ ?_).trans (decode32_encode_full h32 he)
      exact (congrArg₂ joinHalves (joinBytes_extract_low w) (joinBytes_extract_high w)).trans (joinHalves_extract w)

end Sys2Proof.Machine
end

section
/-! The rules of the whole machine (R55, R56, R61): what every operation keeps of the parameters, of the invariant and of
the cores' idle flags and outcomes, and what an execute comes to. -/

namespace Sys2Proof.Machine

/-! ## What all but a few operations keep -/

/-- Two cores with the same idle flag and test outcomes (R55, R56). -/
structure ECore.Alike (x y : ECore) : Prop where
  idle : y.idle = x.idle
  passed : y.passed = x.passed
  failed : y.failed = x.failed
  exitCode : y.exitCode = x.exitCode

theorem ECore.Alike.refl (x : ECore) : x.Alike x := ⟨rfl, rfl, rfl, rfl⟩

theorem ECore.Alike.trans {x y z : ECore} (h : x.Alike y) (g : y.Alike z) : x.Alike z :=
  ⟨g.idle.trans h.idle, g.passed.trans h.passed, g.failed.trans h.failed, g.exitCode.trans h.exitCode⟩

/-- A change of the machine that keeps the invariant, the parameters, what the agents are to do, and every core's idle
flag and test outcomes. -/
structure Steady (s t : State) : Prop where
  inv : s.Inv → t.Inv
  cfg : t.cfg = s.cfg
  halting : t.halting = s.halting
  self : t.self = s.self
  agenda : t.agenda = s.agenda
  alike : ∀ c, (s.core c).Alike (t.core c)

theorem Steady.refl (s : State) : Steady s s := ⟨id, rfl, rfl, rfl, rfl, fun _ => ECore.Alike.refl _⟩

theorem Steady.trans {s t u : State} (h : Steady s t) (g : Steady t u) : Steady s u :=
  ⟨g.inv ∘ h.inv, g.cfg.trans h.cfg, g.halting.trans h.halting, g.self.trans h.self, g.agenda.trans h.agenda,
    fun c => (h.alike c).trans (g.alike c)⟩

/-- A core that the executing core can reach: itself, or a core of the grid. -/
def Reachable (s : State) (c : CoreId) : Prop := c = s.self ∨ inGrid s.cfg c = true

theorem Reachable.inGrid {s : State} {c : CoreId} (h : Reachable s c) (hi : s.Inv) : inGrid s.cfg c = true :=
  h.elim (fun hc => hc ▸ hi.self) id

theorem Reachable.of_steady {s t : State} {c : CoreId} (h : Reachable s c) (hst : Steady s t) : Reachable t c := by
  rwa [Reachable, hst.self, hst.cfg]

/-! ### The writes of one core -/

section
variable {s : State}

theorem steady_setCore {c : CoreId} {x : ECore} (hc : Reachable s c) (hx : (s.core c).Alike x)
    (hwf : ∀ w, windowOk w = true → (s.core c).wf w = true → x.wf w = true) : Steady s (s.setCore c x) := by
  refine ⟨fun h => ?inv, rfl, rfl, rfl, rfl, fun d => ?alike⟩
  case inv =>
    have hgrid := hc.inGrid h
    exact inv_setCore h hgrid (hwf _ (inv_window h) (inv_core h hgrid))
  case alike =>
    rw [State.core_setCore]
    split
    case isTrue hd => exact hd ▸ hx
    case isFalse => exact ECore.Alike.refl _

variable (s)

theorem reachable_self : Reachable s s.self := .inl rfl

theorem steady_modMe {f : ECore → ECore} (hx : s.me.Alike (f s.me))
    (hwf : ∀ w, windowOk w = true → s.me.wf w = true → (f s.me).wf w = true) : Steady s (s.modMe f) :=
  steady_setCore (reachable_self s) hx hwf

theorem steady_setReg (i : RegIdx) (v : Word) : Steady s (s.setReg i v) :=
  steady_modMe s ⟨rfl, rfl, rfl, rfl⟩ fun _ ho h =>
    wf_setWord h (windowOk_room ho (Nat.lt_trans (regIdx_lt i) (by decide))) v

theorem steady_setCtl (r : Ctl) (v : Word) : Steady s (s.setCtl r v) :=
  steady_modMe s ⟨rfl, rfl, rfl, rfl⟩ fun _ ho h => wf_setCtl ho h r v

theorem steady_setPc (v : Word) : Steady s (s.setPc v) := steady_setCtl s .pc v

theorem steady_setFlag (b : Nat) (v : Bool) : Steady s (s.setFlag b v) := steady_setCtl s .status _

theorem steady_note (n : Note) : Steady s (s.note n) := steady_modMe s ⟨rfl, rfl, rfl, rfl⟩ fun _ _ h => h

theorem steady_fresh (n : Nat) : Steady s { s with fresh := n } :=
  ⟨fun h => ⟨h.config, h.self, h.keys, h.cores, h.ext, h.extBound⟩, rfl, rfl, rfl, rfl, fun _ => ECore.Alike.refl _⟩

theorem steady_halt (n : Note) : Steady s (halt s n) := (steady_setFlag s _ _).trans (steady_note _ n)

variable {s}

theorem alike_latch (cfg : Config) (x : ECore) (irq : Fin 9) (cause : Option Cause) :
    x.Alike (x.latch cfg irq cause) := by
  cases cause <;> exact ⟨rfl, rfl, rfl, rfl⟩

theorem steady_trigger {c : CoreId} (hc : Reachable s c) (irq : Fin 9) (cause : Option Cause) :
    Steady s (trigger s c irq cause) :=
  steady_setCore hc (alike_latch _ _ _ _) fun _ ho h => wf_latch ho h _ _ _

theorem steady_trigger_self (irq : Fin 9) (cause : Option Cause) : Steady s (trigger s s.self irq cause) :=
  steady_trigger (reachable_self s) irq cause

theorem steady_memWrite {t : State} {c : CoreId} (hc : Reachable s c) {a : Word} {size : Access} {v : Word}
    (h : memWrite s c a size v = .ok t) : Steady s t := by
  obtain ⟨hcfg, hhalting, hself, hagenda, -, hcores⟩ := memWrite_keeps h
  refine ⟨fun hi => inv_memWrite hi (hc.inGrid hi) h, hcfg, hhalting, hself, hagenda, fun d => ?_⟩
  obtain ⟨hidle, hpassed, hfailed, hexit, -⟩ := hcores d
  exact ⟨hidle, hpassed, hfailed, hexit⟩

theorem steady_testSet {a v : Word} {p : Word × State} (h : testSet s s.self a v = .ok p) : Steady s p.2 := by
  have hinv : s.Inv → p.2.Inv := fun hi => inv_testSet hi hi.self h
  obtain ⟨-, d, off, -, -, -, -, hp⟩ := testSet_ok h
  generalize p.2 = u at hinv hp
  split at hp
  case isFalse => exact hp ▸ Steady.refl s
  case isTrue =>
    subst hp
    refine ⟨hinv, rfl, rfl, rfl, rfl, fun c => ?_⟩
    rw [State.core_setCore]
    split
    case isTrue hc => exact hc ▸ ⟨rfl, rfl, rfl, rfl⟩
    case isFalse => exact ECore.Alike.refl _

/-! ### The end of an instruction -/

theorem steady_applySignal (width : Nat) (a : Word) (sig : Signal) : Steady s (applySignal width a sig s) := by
  unfold applySignal
  split
  case isTrue => exact (steady_setCtl s _ _).trans (steady_setPc _ _)
  case isFalse =>
    cases sig with
    | none => exact Steady.refl s
    | next => exact steady_setPc s _
    | idle => exact steady_setPc s _

theorem steady_complete (width : Nat) (a : Word) {sig : Signal} (hs : sig ≠ .idle) :
    Steady s (complete width a sig s) := by
  have hidle : applyIdle sig s = s := by
    cases sig with
    | none => rfl
    | next => rfl
    | idle => exact absurd rfl hs
  rw [complete, hidle]
  exact (steady_applySignal width a sig).trans (steady_note _ _)

/-- After `Idle` the end of an instruction is steady from the state with the idle flag set. -/
theorem steady_complete_applyIdle (width : Nat) (a : Word) (sig : Signal) :
    Steady (applyIdle sig s) (complete width a sig s) :=
  (steady_applySignal width a sig).trans (steady_note _ _)

end

/-! ### Loops over cores (R109) -/

theorem steady_forCores {f : State → CoreId → State} {cs : List CoreId} (hf : ∀ s c, Reachable s c → Steady s (f s c))
    {s : State} (hcs : ∀ c ∈ cs, Reachable s c) : Steady s (forCores f cs s) := by
  induction cs generalizing s with
  | nil => exact Steady.refl s
  | cons c cs ih =>
    have hc := hf s c (hcs c List.mem_cons_self)
    exact hc.trans (ih fun d hd => (hcs d (List.mem_cons_of_mem c hd)).of_steady hc)

theorem inGrid_of_mem_gridCores {cfg : Config} {c : CoreId} (h : c ∈ gridCores cfg) : inGrid cfg c = true := by
  simp only [gridCores, List.mem_flatMap, List.mem_map, List.mem_range] at h
  obtain ⟨r, hr, k, hk, rfl⟩ := h
  rw [inGrid, Bool.and_eq_true, decide_eq_true_eq, decide_eq_true_eq, BitVec.toNat_ofNat, BitVec.toNat_ofNat]
  exact ⟨Nat.lt_of_le_of_lt (Nat.mod_le _ _) hr, Nat.lt_of_le_of_lt (Nat.mod_le _ _) hk⟩

theorem reachable_of_mem_gridCores {s : State} {c : CoreId} (h : c ∈ gridCores s.cfg) : Reachable s c :=
  .inr (inGrid_of_mem_gridCores h)

/-! ## Results that end well -/

/-- The value of a result has a property, and so has the state that a memory fault leaves. -/
def Res.Ends {α : Type} (p : α → Prop) (q : State → Prop) : Res α → Prop
  | .ok a => p a
  | .memoryFault _ _ u => q u
  | .misaligned _ => True
  | .refused _ => True

theorem Res.Ends.bind {α β : Type} {p : α → Prop} {p' : β → Prop} {q : State → Prop} {r : Res α} {f : α → Res β}
    (h : r.Ends p q) (hf : ∀ a, p a → (f a).Ends p' q) : (r.bind f).Ends p' q := by
  cases r with
  | ok a => exact hf a h
  | memoryFault a w u => exact h
  | misaligned a => trivial
  | refused x => trivial

theorem Res.Ends.mono {α : Type} {p p' : α → Prop} {q q' : State → Prop} {r : Res α} (h : r.Ends p q)
    (hp : ∀ a, p a → p' a) (hq : ∀ u, q u → q' u) : r.Ends p' q' := by
  cases r with
  | ok a => exact hp a h
  | memoryFault a w u => exact hq u h
  | misaligned a => trivial
  | refused x => trivial

theorem memRead_ends (s : State) (c : CoreId) (a : Word) (size : Access) :
    (memRead s c a size).Ends (fun _ => True) (· = s) := by
  unfold memRead
  split
  · split
    · split <;> trivial
    · rfl
  · trivial

/-- A memory write faults before any effect. -/
theorem memWrite_ends (s : State) (c : CoreId) (a : Word) (size : Access) (v : Word) :
    (memWrite s c a size v).Ends (fun t => memWrite s c a size v = .ok t) (· = s) := by
  generalize hr : memWrite s c a size v = r
  cases r with
  | ok t => exact rfl
  | misaligned b => trivial
  | refused x => trivial
  | memoryFault b w u =>
    unfold memWrite at hr
    split at hr
    · split at hr
      · split at hr
        · cases hr
        · split at hr <;> cases hr
        · cases hr; rfl
      · cases hr; rfl
    · cases hr

theorem testSet_ends (s : State) (c : CoreId) (a v : Word) :
    (testSet s c a v).Ends (fun p => testSet s c a v = .ok p) (· = s) := by
  generalize hr : testSet s c a v = r
  cases r with
  | ok t => exact rfl
  | misaligned b => trivial
  | refused x => trivial
  | memoryFault b w u =>
    unfold testSet at hr
    split at hr
    · split at hr
      · split at hr
        · cases hr; rfl
        · split at hr <;> cases hr
      · cases hr; rfl
    · cases hr

/-! ## What an execute comes to -/

/-- An instruction is refused, or its execute runs to its end, where the signal and the state that it comes to, or the
state that a memory fault leaves, have the property `q`. -/
def Runs (s : State) (o : Host.Outcome State Fault Refusal) (q : Signal → State → Prop) : Prop :=
  (∃ r, o = .refused r) ∨ ∃ width res, o = runInstr width s res ∧ res.Ends (fun p => q p.1 p.2) (q .next)

section
variable {s : State} {q : Signal → State → Prop}

theorem runs_runInstr {width : Nat} {r : Res (Signal × State)} (h : r.Ends (fun p => q p.1 p.2) (q .next)) :
    Runs s (runInstr width s r) q := .inr ⟨width, r, rfl, h⟩

theorem runs_ok {width : Nat} {sig : Signal} {u : State} (h : q sig u) : Runs s (runInstr width s (.ok (sig, u))) q :=
  runs_runInstr h

theorem runs_refused (r : Refusal) : Runs s (.refused r) q := .inl ⟨r, rfl⟩

/-- An execute that ends in a next state completed, was abandoned for a misaligned access, or halted. -/
theorem Runs.next {o : Host.Outcome State Fault Refusal} {t : State} (h : Runs s o q)
    (hm : q .next (trigger s s.self irqSwExc (some .unalignedAccess))) (ho : o = .next t) :
    ∃ sig u, q sig u ∧ ((∃ width, t = complete width s.pc sig u) ∨
      ∃ a w, sig = .next ∧ t = halt u (.invalidMemoryAccess a w)) := by
  obtain ⟨r, hr⟩ | ⟨width, res, hr, hends⟩ := h
  · rw [hr] at ho
    cases ho
  · rw [hr] at ho
    obtain ⟨sig, u, rfl, rfl⟩ | ⟨a, w, u, rfl, rfl⟩ | ⟨a, rfl, rfl⟩ := runInstr_next ho
    · exact ⟨sig, u, hends, .inl ⟨width, rfl⟩⟩
    · exact ⟨.next, u, hends, .inr ⟨a, w, rfl, rfl⟩⟩
    · exact ⟨.next, _, hm, .inl ⟨width, rfl⟩⟩

end

end Sys2Proof.Machine
end

section
/-! What the execute of each instruction comes to: of those that do not write memory at will, the loop registers, the
notifications and the flags (R52, R53, R362) as well as all that every execute keeps. -/

namespace Sys2Proof.Machine

/-! ## The bits of STATUS after the float flags are written (R274) -/

theorem floatFlags_bit (st : Word) (z n v : Bool) (b : Nat) : (floatFlags st z n v).getLsbD b =
    if b = bitBV then v else if b = bitBN then n else if b = bitBZ then z else st.getLsbD b := by
  simp only [floatFlags]
  rw [getLsbD_setBit _ _ _ _ (by decide), getLsbD_setBit _ _ _ _ (by decide), getLsbD_setBit _ _ _ _ (by decide)]

theorem fpArithStatus_bit (st : Word) (r : FpResult) (b : Nat) : (fpArithStatus st r).getLsbD b =
    if b = bitBUS then st.getLsbD bitBUS || r.underflow else if b = bitBVS then st.getLsbD bitBVS || r.overflow
    else if b = bitBIS then st.getLsbD bitBIS || r.invalid
    else (floatFlags st (r.word &&& 0x7FFFFFFF#32 == 0) (r.word.getLsbD 31) r.overflow).getLsbD b := by
  simp only [fpArithStatus]
  rw [getLsbD_setBit _ _ _ _ (by decide), getLsbD_setBit _ _ _ _ (by decide), getLsbD_setBit _ _ _ _ (by decide)]

theorem fixStatus_bit (fp : FpConfig) (st : Word) (r : FpResult) (b : Nat) : (fixStatus fp st r).getLsbD b =
    if b = bitBIS then st.getLsbD bitBIS || r.invalid
    else (floatFlags st (r.word == 0) (r.word.getLsbD 31) (convOverflow fp st)).getLsbD b := by
  simp only [fixStatus]
  rw [getLsbD_setBit _ _ _ _ (by decide)]

/-! ## Sticky bits (R52) -/

/-- The sticky bits AVS, BIS, BVS, BUS. -/
def stickyBits : List Nat := [bitAVS, bitBIS, bitBVS, bitBUS]

/-- A STATUS word that clears no sticky bit of another. -/
def StickyKept (st st' : Word) : Prop := ∀ b ∈ stickyBits, st.getLsbD b = true → st'.getLsbD b = true

theorem sticky_cases {b : Nat} (h : b ∈ stickyBits) : b = bitAVS ∨ b = bitBIS ∨ b = bitBVS ∨ b = bitBUS := by
  simpa [stickyBits] using h

section
variable (alu : AluConfig) (fp : FpConfig) (st r : Word)

theorem stickyKept_intFlags (c v : Bool) : StickyKept st (intFlags st r c v) := by
  intro b hb h
  rw [intFlags_bit]
  rcases sticky_cases hb with rfl | rfl | rfl | rfl <;> exact h

theorem stickyKept_arithFlags (c v : Bool) : StickyKept st (arithFlags st r c v) := by
  intro b hb h
  rw [arithFlags_bit]
  split
  case isTrue hbit => rw [← hbit, h, Bool.true_or]
  case isFalse => exact stickyKept_intFlags st r c v b hb h

theorem stickyKept_aluStatus (op : AluOp) (a b : Word) : StickyKept st (aluStatus alu op st a b) := by
  cases op with
  | add => exact stickyKept_arithFlags st _ _ _
  | sub => exact stickyKept_arithFlags st _ _ _
  | and => exact stickyKept_intFlags st _ _ _
  | orr => exact stickyKept_intFlags st _ _ _
  | eor => exact stickyKept_intFlags st _ _ _
  | lsl => exact stickyKept_intFlags st _ _ _
  | lsr => exact stickyKept_intFlags st _ _ _
  | asr => exact stickyKept_intFlags st _ _ _

theorem stickyKept_floatFlags (z n v : Bool) : StickyKept st (floatFlags st z n v) := by
  intro b hb h
  rw [floatFlags_bit]
  rcases sticky_cases hb with rfl | rfl | rfl | rfl <;> exact h

theorem stickyKept_fpArithStatus (res : FpResult) : StickyKept st (fpArithStatus st res) := by
  intro b hb h
  rw [fpArithStatus_bit]
  split
  case isTrue hbit => rw [← hbit, h, Bool.true_or]
  split
  case isTrue hbit => rw [← hbit, h, Bool.true_or]
  split
  case isTrue hbit => rw [← hbit, h, Bool.true_or]
  case isFalse => exact stickyKept_floatFlags st _ _ _ b hb h

theorem stickyKept_fixStatus (res : FpResult) : StickyKept st (fixStatus fp st res) := by
  intro b hb h
  rw [fixStatus_bit]
  split
  case isTrue hbit => rw [← hbit, h, Bool.true_or]
  case isFalse => exact stickyKept_floatFlags st _ _ _ b hb h

end

/-! ## Tame writes -/

/-- What the execute of an instruction that does not write memory at will keeps: the loop registers, the notifications,
the sticky bits that are set, and, unless it `writes` flags, every condition flag and sticky bit. -/
structure Tame (writes : Bool) (s u : State) : Prop where
  steady : Steady s u
  notes : u.me.notes = s.me.notes
  loop : ∀ r ∈ [Ctl.lc, .le, .ls], u.ctl r = s.ctl r
  sticky : StickyKept (s.ctl .status) (u.ctl .status)
  flags : writes = false → ∀ b, 4 ≤ b → b < 16 → u.flag b = s.flag b

section
variable {writes : Bool} {s t u : State}

theorem Tame.refl (writes : Bool) (s : State) : Tame writes s s :=
  ⟨Steady.refl s, rfl, fun _ _ => rfl, fun _ _ h => h, fun _ _ _ _ => rfl⟩

theorem Tame.trans (h : Tame writes s t) (g : Tame writes t u) : Tame writes s u :=
  ⟨h.steady.trans g.steady, g.notes.trans h.notes, fun r hr => (g.loop r hr).trans (h.loop r hr),
    fun b hb hs => g.sticky b hb (h.sticky b hb hs),
    fun hw b hlo hhi => (g.flags hw b hlo hhi).trans (h.flags hw b hlo hhi)⟩

theorem stickyBits_bounds {b : Nat} (h : b ∈ stickyBits) : 4 ≤ b ∧ b < 16 := by
  rcases sticky_cases h with rfl | rfl | rfl | rfl <;> decide

/-- A write that keeps the flags is tame, whatever instruction makes it. -/
theorem tame_of_flags (hst : Steady s u) (hnotes : u.me.notes = s.me.notes)
    (hloop : ∀ r ∈ [Ctl.lc, .le, .ls], u.ctl r = s.ctl r) (hflags : ∀ b, 4 ≤ b → b < 16 → u.flag b = s.flag b) :
    Tame writes s u :=
  ⟨hst, hnotes, hloop, fun b hb h => (hflags b (stickyBits_bounds hb).1 (stickyBits_bounds hb).2).trans h,
    fun _ => hflags⟩

theorem tame_of_ctl (hst : Steady s u) (hnotes : u.me.notes = s.me.notes)
    (hctl : ∀ r ∈ [Ctl.lc, .le, .ls, .status], u.ctl r = s.ctl r) : Tame writes s u :=
  tame_of_flags hst hnotes
    (fun r hr => hctl r (by simp only [List.mem_cons, List.not_mem_nil, or_false] at hr ⊢; tauto))
    fun b _ _ => congrArg (·.getLsbD b) (hctl .status (by decide))

variable (s)

theorem tame_setReg (i : RegIdx) (v : Word) : Tame writes s (s.setReg i v) :=
  tame_of_ctl (steady_setReg s i v) (by simp) fun r _ => State.ctl_setReg s i r v

theorem tame_setCtl {r : Ctl} (hr : r ∉ [Ctl.lc, .le, .ls, .status]) (v : Word) : Tame writes s (s.setCtl r v) :=
  tame_of_ctl (steady_setCtl s r v) (by simp) fun _ hq => State.ctl_setCtl_ne s v fun h => hr (h ▸ hq)

theorem tame_setPc (v : Word) : Tame writes s (s.setPc v) := tame_setCtl s (by decide) v

theorem tame_fresh (n : Nat) : Tame writes s { s with fresh := n } :=
  tame_of_ctl (steady_fresh s n) rfl fun _ _ => rfl

theorem ctl_setCtl_status_loop (st : Word) : ∀ r ∈ [Ctl.lc, .le, .ls], (s.setCtl .status st).ctl r = s.ctl r := by
  intro r hr
  refine State.ctl_setCtl_ne s st ?_
  rintro rfl
  revert hr
  decide

theorem tame_setFlag {b : Nat} (hb : b < 4) (v : Bool) : Tame writes s (s.setFlag b v) := by
  refine tame_of_flags (steady_setFlag s b v) (by simp) (ctl_setCtl_status_loop s _) fun j hlo _ => ?_
  rw [State.flag_setFlag s b j v (by omega), if_neg (by omega)]

/-- An instruction that writes flags writes STATUS, and clears no sticky bit. -/
theorem tame_setStatus {st : Word} (h : StickyKept (s.ctl .status) st) : Tame true s (s.setCtl .status st) :=
  ⟨steady_setCtl s .status st, by simp, ctl_setCtl_status_loop s st, by rwa [State.ctl_setCtl_same], fun h => by cases h⟩

/-- Latching an interrupt writes ILAT and the cause field of STATUS. -/
theorem tame_trigger {c : CoreId} (hc : Reachable s c) (irq : Fin 9) (cause : Option Cause) :
    Tame writes s (trigger s c irq cause) := by
  have hst := steady_trigger hc irq cause
  by_cases hme : s.self = c
  case neg =>
    have hme : (trigger s c irq cause).me = s.me := State.core_setCore_ne s _ hme
    exact tame_of_ctl hst (congrArg ECore.notes hme) fun r _ => congrArg (·.ctl r) hme
  subst hme
  obtain ⟨-, hcause, hnone, hwords, -, -, hnotes⟩ := latch_spec s.cfg s.me irq cause
  have hme := me_trigger_self s irq cause
  refine tame_of_flags hst (by rw [hme, hnotes]) (fun r hr => ?_) fun b hlo hhi => ?_
  · rw [State.ctl, hme]
    refine hwords _ ?_ ?_ <;> rw [Ne, Ctl.index_eq_iff] <;> rintro rfl <;> revert hr <;> decide
  · rw [State.flag, State.ctl, hme]
    cases cause with
    | none => rw [hnone rfl]; rfl
    | some q => rw [hcause q rfl b, if_neg (by omega)]; rfl

theorem tame_trigger_self (irq : Fin 9) (cause : Option Cause) : Tame writes s (trigger s s.self irq cause) :=
  tame_trigger s (reachable_self s) irq cause

variable {s}

theorem tame_forCores {f : State → CoreId → State} {cs : List CoreId}
    (hf : ∀ s c, Reachable s c → Tame writes s (f s c)) (hcs : ∀ c ∈ cs, Reachable s c) :
    Tame writes s (forCores f cs s) := by
  induction cs generalizing s with
  | nil => exact Tame.refl writes s
  | cons c cs ih =>
    have hc := hf s c (hcs c List.mem_cons_self)
    exact hc.trans (ih fun d hd => (hcs d (List.mem_cons_of_mem c hd)).of_steady hc.steady)

theorem tame_setDebugHalt {c : CoreId} (hc : Reachable s c) : Tame writes s (setDebugHalt s c) := by
  have hst : Steady s (setDebugHalt s c) := steady_setCore hc ⟨rfl, rfl, rfl, rfl⟩ fun _ ho h => wf_setCtl ho h _ _
  have hcore : (setDebugHalt s c).me = if s.self = c
      then (s.core c).setCtl .debugStatus (setBit ((s.core c).ctl .debugStatus) bitHalt true) else s.me :=
    State.core_setCore s c s.self _
  split at hcore
  case isFalse => exact tame_of_ctl hst (by rw [hcore]) fun r _ => congrArg (·.ctl r) hcore
  case isTrue hself =>
    subst hself
    refine tame_of_ctl hst (by rw [hcore]; rfl) fun r hr => ?_
    rw [State.ctl, hcore]
    refine ECore.ctl_setCtl_ne _ _ ?_
    rintro rfl
    revert hr
    decide

theorem tame_testSet {a v : Word} {p : Word × State} (h : testSet s s.self a v = .ok p) : Tame writes s p.2 := by
  have hst := steady_testSet h
  obtain ⟨-, d, off, -, hd, -, -, hp⟩ := testSet_ok h
  have hme : p.2.me = s.me := by
    rw [State.me, hst.self, hp]
    split
    · exact State.core_setCore_ne s _ hd.symm
    · rfl
  exact tame_of_ctl hst (congrArg ECore.notes hme) fun r _ => congrArg (·.ctl r) hme

theorem tame_rtiEffect : Tame writes s (rtiEffect s) := by
  have hst : Steady s (rtiEffect s) := by
    obtain ⟨w, hw⟩ := leaveInterrupt_eq s.me
    exact steady_modMe s (by rw [hw]; exact ⟨rfl, rfl, rfl, rfl⟩) fun _ ho h => wf_leaveInterrupt ho h
  refine tame_of_flags hst (notes_rtiEffect s) (fun r hr => ?_) fun b hlo _ => ?_
  · refine (frame_rtiEffect s).words _ ?_
    simp only [List.mem_cons, List.not_mem_nil, or_false, not_or, Ctl.index_eq_iff]
    refine ⟨?_, ?_, ?_⟩ <;> rintro rfl <;> revert hr <;> decide
  · rw [flag_rtiEffect, if_neg]
    rintro rfl
    revert hlo
    decide

theorem tame_wandEffect : Tame writes s (wandEffect s) := by
  have hflag : Tame writes s (s.setFlag bitWand true) := tame_setFlag s (by decide) true
  unfold wandEffect
  dsimp only
  split
  case isFalse => exact hflag
  case isTrue => exact hflag.trans (tame_forCores (fun u c hc => tame_trigger u hc _ _) fun c => reachable_of_mem_gridCores)

end

/-! ## The families of instructions -/

theorem Signal.next_ne_idle : Signal.next ≠ .idle := by decide

/-- An execute that is tame and does not return `Idle`, or is refused. -/
def TameRuns (writes : Bool) (s : State) (o : Host.Outcome State Fault Refusal) : Prop :=
  Runs s o fun sig u => Tame writes s u ∧ sig ≠ .idle

section
variable {writes : Bool} {s : State} {width : Nat}

theorem tameRuns_next {u : State} (h : Tame writes s u) : TameRuns writes s (runNext width s u) :=
  runs_ok ⟨h, Signal.next_ne_idle⟩

theorem tameRuns_none {u : State} (h : Tame writes s u) : TameRuns writes s (runInstr width s (.ok (.none, u))) :=
  runs_ok ⟨h, by decide⟩

theorem tame_writeLink : Tame writes s (writeLink width s) := tame_setReg s _ _

theorem tameRuns_branchIf (cond : Cond) (disp : Word) : TameRuns writes s (branchIf width s cond disp) := by
  unfold branchIf
  split
  case isFalse => exact tameRuns_next (Tame.refl _ s)
  case isTrue =>
    refine tameRuns_none (Tame.trans ?_ (tame_setPc _ _))
    split
    · exact tame_writeLink
    · exact Tame.refl _ s

theorem tameRuns_jumpReg (rn : RegIdx) : TameRuns writes s (jumpReg width s rn) := tameRuns_none (tame_setPc s _)

theorem tameRuns_jumpLink (rn : RegIdx) : TameRuns writes s (jumpLink width s rn) :=
  tameRuns_none (tame_writeLink.trans (tame_setPc _ _))

/-- An access that reads, then writes registers. -/
theorem tame_loadN (ea : Word) (size : Size) (rd : RegIdx) :
    (loadN s ea size rd).Ends (Tame writes s) (Tame writes s) := by
  have read : ∀ (u : State) (c : CoreId) (a : Word) (z : Access), Tame writes s u →
      (memRead u c a z).Ends (fun _ => True) (Tame writes s) := fun u c a z hu =>
    (memRead_ends u c a z).mono (fun _ h => h) fun v hv => hv ▸ hu
  unfold loadN
  split
  · split
    · refine (read s _ _ _ (Tame.refl _ s)).bind fun lo _ => ?_
      exact (read _ _ _ _ (tame_setReg s rd lo)).bind fun hi _ => (tame_setReg s rd lo).trans (tame_setReg _ _ hi)
    · trivial
  · exact (read s _ _ _ (Tame.refl _ s)).bind fun v _ => tame_setReg s rd v

/-- A load that completes with a further tame write. -/
theorem tameRuns_load {s : State} (ea : Word) (size : Size) (rd : RegIdx) {f : State → State}
    (hf : ∀ t, Tame writes t (f t)) :
    TameRuns writes s (runInstr width s ((loadN s ea size rd).bind fun t => .ok (.next, f t))) := by
  have hload : (loadN s ea size rd).Ends (Tame writes s) (fun u => Tame writes s u ∧ Signal.next ≠ .idle) :=
    (tame_loadN ea size rd).mono (fun _ h => h) fun _ h => ⟨h, Signal.next_ne_idle⟩
  exact runs_runInstr (hload.bind fun t ht => ⟨ht.trans (hf t), Signal.next_ne_idle⟩)

theorem tameRuns_loadAt (rd : RegIdx) (ea : Word) (size : Size) : TameRuns writes s (loadAt width s rd ea size) :=
  tameRuns_load ea size rd fun t => Tame.refl _ t

theorem tameRuns_loadPost (rd rn : RegIdx) (base' : Word) (size : Size) :
    TameRuns writes s (loadPost width s rd rn base' size) := by
  unfold loadPost
  split
  case isTrue => exact runs_refused _
  case isFalse => exact tameRuns_load _ size rd fun t => tame_setReg t rn base'

theorem tameRuns_testset (rd rn rm : RegIdx) (sub : Bool) : TameRuns writes s (execTestset rd rn rm sub s) := by
  have htest : (testSet s s.self (indexAddr s rn rm sub) (s.reg rd)).Ends
      (fun p => Tame writes s p.2) (fun u => Tame writes s u ∧ Signal.next ≠ .idle) :=
    (testSet_ends s s.self _ _).mono (fun _ h => tame_testSet h) fun _ h => ⟨h.symm ▸ Tame.refl _ s, Signal.next_ne_idle⟩
  exact runs_runInstr (htest.bind fun p hp => ⟨hp.trans (tame_setReg p.2 rd p.1), Signal.next_ne_idle⟩)

theorem tameRuns_movIf (cond : Cond) (rd rn : RegIdx) : TameRuns writes s (movIf width s cond rd rn) := by
  refine tameRuns_next ?_
  split
  · exact tame_setReg s rd _
  · exact Tame.refl _ s

theorem tameRuns_moveReg (rd : RegIdx) (v : Word) : TameRuns writes s (runNext width s (s.setReg rd v)) :=
  tameRuns_next (tame_setReg s rd v)

theorem tameRuns_moveFromCtl (group : BitVec 2) (sn : BitVec 6) (rd : RegIdx) :
    TameRuns writes s (moveFromCtl width s group sn rd) := by
  have hread : (memRead s s.self (ctlAddr s.cfg.window group sn) .b4).Ends (fun _ => True)
      (fun u => Tame writes s u ∧ Signal.next ≠ .idle) :=
    (memRead_ends s s.self _ _).mono (fun _ h => h) fun _ h => ⟨h.symm ▸ Tame.refl _ s, Signal.next_ne_idle⟩
  exact runs_runInstr (hread.bind fun v _ => ⟨tame_setReg s rd v, Signal.next_ne_idle⟩)

/-! ### Integer and float instructions: a register, then STATUS -/

theorem tame_regStatus (s : State) (rd : RegIdx) (v : Word) {st : Word} (h : StickyKept (s.ctl .status) st) :
    Tame true s ((s.setReg rd v).setCtl .status st) :=
  (tame_setReg s rd v).trans (tame_setStatus _ (by rwa [State.ctl_setReg]))

theorem tameRuns_aluReg (op : AluOp) (rd rn rm : RegIdx) : TameRuns true s (aluReg width s op rd rn rm) :=
  tameRuns_next (tame_regStatus s rd _ (stickyKept_aluStatus _ _ op _ _))

theorem tameRuns_aluImm (op : AluOp) (rd rn : RegIdx) (b : Word) : TameRuns true s (aluImm width s op rd rn b) :=
  tameRuns_next (tame_regStatus s rd _ (stickyKept_aluStatus _ _ op _ _))

theorem tameRuns_bitr (rd : RegIdx) (a : Word) : TameRuns true s (runNext width s (bitrWrite s rd a)) :=
  tameRuns_next (tame_regStatus s rd _ (stickyKept_intFlags _ _ _ _))

theorem tame_floatWrite (s : State) (rd : RegIdx) {st : Word} (r : FpResult) (h : StickyKept (s.ctl .status) st) :
    Tame true s (floatWrite s rd st r) := by
  have hwrite := tame_regStatus s rd r.word h
  unfold floatWrite raiseFloat
  split
  case isTrue => exact hwrite.trans (tame_trigger_self _ _ _)
  case isFalse => exact hwrite

/-- A float instruction is refused outside float mode. -/
theorem tameRuns_runFloat {u : State} (h : Tame writes s u) : TameRuns writes s (runFloat width s u) := by
  unfold runFloat
  split
  case isTrue => exact tameRuns_next h
  case isFalse => exact runs_refused _

theorem tameRuns_floatArith (op : FpArithOp) (rd rn rm : RegIdx) : TameRuns true s (floatArith width s op rd rn rm) :=
  tameRuns_runFloat (tame_floatWrite s rd _ (stickyKept_fpArithStatus _ _))

theorem tameRuns_floatFma (op : FpArithOp) (rd rn rm : RegIdx) : TameRuns true s (floatFma width s op rd rn rm) :=
  tameRuns_runFloat ((tame_fresh s _).trans (tame_floatWrite _ rd _ (stickyKept_fpArithStatus _ _)))

theorem tameRuns_floatFromInt (rd rn : RegIdx) : TameRuns true s (floatFromInt width s rd rn) :=
  tameRuns_runFloat (tame_regStatus s rd _ (stickyKept_floatFlags _ _ _ _))

theorem tameRuns_floatToInt (rd rn : RegIdx) : TameRuns true s (floatToInt width s rd rn) :=
  tameRuns_runFloat (tame_floatWrite s rd _ (stickyKept_fixStatus _ _ _))

theorem tameRuns_floatAbs (rd rn : RegIdx) : TameRuns true s (floatAbs width s rd rn) :=
  tameRuns_runFloat (tame_regStatus s rd _ (stickyKept_floatFlags _ _ _ _))

end

/-! ## Every instruction that does not write memory at will -/

theorem tameRuns_exec {i : Instr} (s : State) (hw : writesMemoryAtWill i = false) (hi : i ≠ .idle) :
    TameRuns (writesFlags i) s (exec i s) := by
  cases i with
  | idle => exact absurd rfl hi
  | strIndex16 | strIndex32 | strPost16 | strPost32 | strDisp16 | strDisp32 | strDispPost => cases hw
  | movts16 | movts32 | trap => cases hw
  | bcond16 | bcond32 => exact tameRuns_branchIf _ _
  | jr16 | jr32 => exact tameRuns_jumpReg _
  | jalr16 | jalr32 => exact tameRuns_jumpLink _
  | ldrIndex16 | ldrIndex32 | ldrDisp16 | ldrDisp32 => exact tameRuns_loadAt _ _ _
  | ldrPost16 | ldrPost32 | ldrDispPost => exact tameRuns_loadPost _ _ _ _
  | testset => exact tameRuns_testset _ _ _ _
  | movImm16 | movImm32 | movt => exact tameRuns_moveReg _ _
  | movCond16 | movCond32 => exact tameRuns_movIf _ _ _
  | movfs16 | movfs32 => exact tameRuns_moveFromCtl _ _ _
  | addImm16 | addImm32 | subImm16 | subImm32 => exact tameRuns_aluImm _ _ _ _
  | lslImm16 | lslImm32 | lsrImm16 | lsrImm32 | asrImm16 | asrImm32 => exact tameRuns_aluImm _ _ _ _
  | add16 | add32 | sub16 | sub32 | and16 | and32 | orr16 | orr32 | eor16 | eor32 => exact tameRuns_aluReg _ _ _ _
  | lsl16 | lsl32 | lsr16 | lsr32 | asr16 | asr32 => exact tameRuns_aluReg _ _ _ _
  | bitr16 | bitr32 => exact tameRuns_bitr _ _
  | fadd16 | fadd32 | fsub16 | fsub32 | fmul16 | fmul32 => exact tameRuns_floatArith _ _ _ _
  | fmadd16 | fmadd32 | fmsub16 | fmsub32 => exact tameRuns_floatFma _ _ _ _
  | float16 | float32 => exact tameRuns_floatFromInt _ _
  | fix16 | fix32 => exact tameRuns_floatToInt _ _
  | fabs16 | fabs32 => exact tameRuns_floatAbs _ _
  | nop => exact tameRuns_next (Tame.refl _ s)
  | gie | gid => exact tameRuns_next (tame_setFlag s (by decide) _)
  | bkpt => exact tameRuns_next (tame_setCtl s (by decide) _)
  | mbkpt => exact tameRuns_next (tame_forCores (fun _ _ hc => tame_setDebugHalt hc) fun _ => reachable_of_mem_gridCores)
  | sync => exact tameRuns_next (tame_forCores (fun u _ hc => tame_trigger u hc _ _) fun _ => reachable_of_mem_gridCores)
  | wand => exact tameRuns_next tame_wandEffect
  | rti => exact tameRuns_none tame_rtiEffect
  | swi => exact tameRuns_next (tame_trigger_self s _ _)

/-- IDLE changes nothing before its signal. -/
theorem exec_idle (s : State) : exec .idle s = .next (complete 2 s.pc .idle s) := rfl

/-- An instruction that does not write memory at will ends after tame writes, with a signal or a memory fault. -/
theorem tame_of_exec {i : Instr} {s t : State} (hw : writesMemoryAtWill i = false) (ht : exec i s = .next t) :
    ∃ sig u, Tame (writesFlags i) s u ∧
      ((∃ width, t = complete width s.pc sig u) ∨ ∃ a w, t = halt u (.invalidMemoryAccess a w)) := by
  by_cases hi : i = .idle
  case pos =>
    subst hi
    rw [exec_idle] at ht
    cases ht
    exact ⟨.idle, s, Tame.refl _ s, .inl ⟨2, rfl⟩⟩
  case neg =>
    obtain ⟨sig, u, ⟨hu, -⟩, hend⟩ :=
      (tameRuns_exec s hw hi).next ⟨tame_trigger_self s _ _, Signal.next_ne_idle⟩ ht
    exact ⟨sig, u, hu, hend.imp_right fun ⟨a, w, _, h⟩ => ⟨a, w, h⟩⟩

/-- Settles O14: the execute keeps the loop registers, so its end finds those of the beginning. -/
theorem loopEndTakesPrecedence : Obligations.LoopEndTakesPrecedence := by
  unfold Obligations.LoopEndTakesPrecedence
  intro i s t hw ht hnotes ⟨hle, hlc⟩
  obtain ⟨sig, u, hu, ⟨width, rfl⟩ | ⟨a, w, rfl⟩⟩ := tame_of_exec hw ht
  · have hlc' := hu.loop .lc (by decide)
    have hend : s.pc = u.ctl .le ∧ u.ctl .lc ≠ 0 := by rw [hlc', hu.loop .le (by decide)]; exact ⟨hle, hlc⟩
    have h := complete_of_loop width sig hend
    rwa [hlc', hu.loop .ls (by decide)] at h
  · rw [(halted_halt u _).notes] at hnotes
    cases hnotes

/-- Settles O60: the execute is tame, and neither its end nor a halt writes a condition flag or a sticky bit. -/
theorem flagsAreWrittenByTheirInstructions : Obligations.FlagsAreWrittenByTheirInstructions := by
  unfold Obligations.FlagsAreWrittenByTheirInstructions
  intro i s t hw ht
  obtain ⟨sig, u, hu, hend⟩ := tame_of_exec hw ht
  have hflag : ∀ b, 4 ≤ b → t.flag b = u.flag b := by
    intro b hb
    obtain ⟨width, rfl⟩ | ⟨a, w, rfl⟩ := hend
    · exact flag_complete width s.pc sig u b
    · exact (halted_halt u _).status b (by rintro rfl; revert hb; decide)
  constructor
  · intro b hb hs
    rw [hflag b (stickyBits_bounds hb).1]
    exact hu.sticky b hb hs
  · intro hwrites b hb
    have hbounds : 4 ≤ b ∧ b < 16 := by revert b; decide
    rw [hflag b hbounds.1, hu.flags hwrites b hbounds.1 hbounds.2]

end Sys2Proof.Machine
end

section
/-! One step of the machine, whatever it is: the execute of every instruction, the acts of the other agents, and the
tick, as far as the invariant, the parameters, the idle flags, the outcomes and the halting flag go (R55, R56, R61). -/

namespace Sys2Proof.Machine

/-! ## What every execute keeps -/

/-- What the execute of an instruction keeps, and what it takes to change an idle flag or an outcome of a core. -/
structure Executed (i : Instr) (s t : State) : Prop where
  inv : s.Inv → t.Inv
  cfg : t.cfg = s.cfg
  halting : t.halting = s.halting
  self : t.self = s.self
  idleSet : ∀ c, (s.core c).idle = false → (t.core c).idle = true → c = s.self ∧ i = .idle
  idleKept : ∀ c, (s.core c).idle = true → (t.core c).idle = true
  exitCode : ∀ c, (t.core c).exitCode ≠ (s.core c).exitCode → c = s.self ∧ i = .trap 3
  passed : ∀ c, (t.core c).passed ≠ (s.core c).passed → c = s.self ∧ i = .trap 4 ∧ (t.core c).passed = true
  failed : ∀ c, (t.core c).failed ≠ (s.core c).failed → c = s.self ∧ i = .trap 5 ∧ (t.core c).failed = true

section
variable {i : Instr} {s t u : State}

theorem executed_of_steady (h : Steady s t) : Executed i s t where
  inv := h.inv
  cfg := h.cfg
  halting := h.halting
  self := h.self
  idleSet c h0 h1 := by rw [(h.alike c).idle, h0] at h1; cases h1
  idleKept c h0 := (h.alike c).idle.trans h0
  exitCode c hc := absurd (h.alike c).exitCode hc
  passed c hc := absurd (h.alike c).passed hc
  failed c hc := absurd (h.alike c).failed hc

theorem Executed.trans_steady (h : Executed i s t) (g : Steady t u) : Executed i s u where
  inv := g.inv ∘ h.inv
  cfg := g.cfg.trans h.cfg
  halting := g.halting.trans h.halting
  self := g.self.trans h.self
  idleSet c := by rw [(g.alike c).idle]; exact h.idleSet c
  idleKept c := by rw [(g.alike c).idle]; exact h.idleKept c
  exitCode c := by rw [(g.alike c).exitCode]; exact h.exitCode c
  passed c := by rw [(g.alike c).passed]; exact h.passed c
  failed c := by rw [(g.alike c).failed]; exact h.failed c

/-- A change of the executing core alone. -/
theorem executed_modMe {f : ECore → ECore} (hwf : ∀ w, s.me.wf w = true → (f s.me).wf w = true)
    (hset : s.me.idle = false → (f s.me).idle = true → i = .idle) (hkept : s.me.idle = true → (f s.me).idle = true)
    (hexit : (f s.me).exitCode ≠ s.me.exitCode → i = .trap 3)
    (hpassed : (f s.me).passed ≠ s.me.passed → i = .trap 4 ∧ (f s.me).passed = true)
    (hfailed : (f s.me).failed ≠ s.me.failed → i = .trap 5 ∧ (f s.me).failed = true) : Executed i s (s.modMe f) := by
  have core : ∀ c, (s.modMe f).core c = if c = s.self then f s.me else s.core c := fun c =>
    State.core_setCore s s.self c _
  refine ⟨fun h => inv_modMe h (hwf _ (inv_me h)), rfl, rfl, rfl, fun c h0 h1 => ?_, fun c h0 => ?_, fun c hc => ?_,
    fun c hc => ?_, fun c hc => ?_⟩ <;> by_cases hself : c = s.self
  all_goals simp only [core, hself, if_true, if_false, true_and, false_and] at *
  · exact hset h0 h1
  · rw [h0] at h1; cases h1
  · exact hkept h0
  · exact h0
  · exact hexit hc
  · exact hc rfl
  · exact hpassed hc
  · exact hc rfl
  · exact hfailed hc
  · exact hc rfl

end

/-! ### The instructions that write memory at will -/

/-- An execute that changes idle flags and outcomes as its instruction may, and does not return `Idle`, or is refused. -/
def ExecutedRuns (i : Instr) (s : State) (o : Host.Outcome State Fault Refusal) : Prop :=
  Runs s o fun sig u => Executed i s u ∧ sig ≠ .idle

section
variable {i : Instr} {s t u : State} {width : Nat}

theorem memWrite_steady {s0 s : State} (h : Steady s0 s) {c : CoreId} (hc : Reachable s c) (a : Word) (size : Access)
    (v : Word) : (memWrite s c a size v).Ends (Steady s0) (Steady s0) :=
  (memWrite_ends s c a size v).mono (fun _ ht => h.trans (steady_memWrite hc ht)) fun _ hu => hu ▸ h

theorem storeN_steady (s : State) (ea : Word) (size : Size) (d0 d1 : Word) :
    (storeN s ea size d0 d1).Ends (Steady s) (Steady s) := by
  unfold storeN
  split
  · split
    · exact (memWrite_steady (Steady.refl s) (reachable_self s) _ _ _).bind fun t ht =>
        memWrite_steady ht ((reachable_self s).of_steady ht) _ _ _
    · trivial
  · exact memWrite_steady (Steady.refl s) (reachable_self s) _ _ _

theorem kernelWrites_steady {s0 : State} (ws : List KernelWrite) {s : State} (h : Steady s0 s) :
    (kernelWrites ws s).Ends (Steady s0) (Steady s0) := by
  induction ws generalizing s with
  | nil => exact h
  | cons w ws ih =>
    rw [kernelWrites]
    split
    case isFalse => trivial
    case isTrue hgrid =>
      have hwrite := memWrite_steady h (.inr hgrid) w.addr w.size w.value
      split
      next t ht => rw [ht] at hwrite; exact ih hwrite
      next => trivial
      next => exact ih h

theorem steady_writeReply (s : State) (a : SyscallReply) : Steady s (writeReply s a) :=
  (((steady_setReg s _ _).trans (steady_setReg _ _ _)).trans (steady_setReg _ _ _)).trans (steady_setReg _ _ _)

theorem extActs_steady {s0 : State} (as : List ExtAct) {s : State} (h : Steady s0 s) :
    (extActs as s).Ends (Steady s0) (Steady s0) := by
  induction as generalizing s with
  | nil => exact h
  | cons a as ih =>
    have hact : (extAct s a).Ends (Steady s0) (Steady s0) := by
      cases a with
      | setWord k v =>
        exact h.trans (steady_modMe s ⟨rfl, rfl, rfl, rfl⟩ fun _ ho hw => wf_setWord hw (windowOk_room ho k.isLt) v)
      | read addr size => exact ((memRead_ends s s.self addr size).mono (fun _ _ => h) fun _ hu => hu ▸ h).bind fun _ hs => hs
      | write addr size v => exact memWrite_steady h (reachable_self s) _ _ _
      | trigger c irq cause =>
        rw [extAct]
        split
        case isFalse => trivial
        case isTrue hgrid => exact h.trans (steady_trigger (.inr (Bool.and_eq_true_iff.mp hgrid).1) _ _)
    exact hact.bind fun t ht => ih ht

theorem executedRuns_of_steady {r : Res State} {f : State → State} (h : r.Ends (Steady s) (Steady s))
    (hf : ∀ t, Steady t (f t)) : ExecutedRuns i s (runInstr width s (r.bind fun t => .ok (.next, f t))) := by
  have hends : r.Ends (Steady s) fun u => Executed i s u ∧ Signal.next ≠ .idle :=
    h.mono (fun _ ht => ht) fun _ hu => ⟨executed_of_steady hu, Signal.next_ne_idle⟩
  exact runs_runInstr (hends.bind fun t ht => ⟨executed_of_steady (ht.trans (hf t)), Signal.next_ne_idle⟩)

theorem executedRuns_storeAt (rd : RegIdx) (ea : Word) (size : Size) : ExecutedRuns i s (storeAt width s rd ea size) :=
  executedRuns_of_steady (storeN_steady s _ _ _ _) fun t => Steady.refl t

theorem executedRuns_storePost (rd rn : RegIdx) (base' : Word) (size : Size) :
    ExecutedRuns i s (storePost width s rd rn base' size) :=
  executedRuns_of_steady (storeN_steady s _ _ _ _) fun t => steady_setReg t rn base'

theorem executedRuns_moveToCtl (group : BitVec 2) (sn : BitVec 6) (rd : RegIdx) :
    ExecutedRuns i s (moveToCtl width s group sn rd) :=
  executedRuns_of_steady (memWrite_steady (Steady.refl s) (reachable_self s) _ _ _) fun t => Steady.refl t

theorem steady_stopActive (s : State) : Steady s (stopActive s) := steady_setFlag s bitActive false

/-- TRAP 3, 4 and 5 record an outcome of the executing core; a system call is steady. -/
theorem trapEffect_executed (n : BitVec 6) : (trapEffect s n).Ends
    (fun p => Executed (.trap n) s p.2 ∧ p.1 ≠ .idle) (fun u => Executed (.trap n) s u ∧ Signal.next ≠ .idle) := by
  have stops : ∀ {f : ECore → ECore}, Executed (.trap n) s (s.modMe f) →
      Executed (.trap n) s (stopActive (s.modMe f)) ∧ Signal.next ≠ .idle := fun h =>
    ⟨h.trans_steady (steady_stopActive _), Signal.next_ne_idle⟩
  unfold trapEffect
  split
  case isTrue hn =>
    refine stops (executed_modMe (fun _ h => h) (fun h0 h1 => ?_) id (fun _ => hn ▸ rfl) (fun h => absurd rfl h)
      fun h => absurd rfl h)
    exact absurd (h0.symm.trans h1) Bool.false_ne_true
  split
  case isTrue hn =>
    refine stops (executed_modMe (fun _ h => h) (fun h0 h1 => ?_) id (fun h => absurd rfl h) (fun _ => ⟨hn ▸ rfl, rfl⟩)
      fun h => absurd rfl h)
    exact absurd (h0.symm.trans h1) Bool.false_ne_true
  split
  case isTrue hn =>
    refine stops (executed_modMe (fun _ h => h) (fun h0 h1 => ?_) id (fun h => absurd rfl h) (fun h => absurd rfl h)
      fun _ => ⟨hn ▸ rfl, rfl⟩)
    exact absurd (h0.symm.trans h1) Bool.false_ne_true
  split
  case isFalse => trivial
  case isTrue =>
    unfold systemCall
    split
    case isFalse => exact ⟨executed_of_steady (Steady.refl s), Signal.next_ne_idle⟩
    case isTrue =>
      have hwrites := kernelWrites_steady (syscallReply s).writes (steady_fresh s (s.fresh + 1))
      have hends := hwrites.mono (fun _ h => h) fun u hu =>
        (⟨executed_of_steady hu, Signal.next_ne_idle⟩ : Executed (.trap n) s u ∧ Signal.next ≠ .idle)
      exact hends.bind fun t ht => ⟨executed_of_steady (ht.trans (steady_writeReply t _)), Signal.next_ne_idle⟩

end

theorem executedRuns_exec {i : Instr} (s : State) (hi : i ≠ .idle) : ExecutedRuns i s (exec i s) := by
  cases hw : writesMemoryAtWill i with
  | false =>
    obtain ⟨r, hr⟩ | ⟨width, res, hres, hends⟩ := tameRuns_exec s hw hi
    · exact .inl ⟨r, hr⟩
    · exact .inr ⟨width, res, hres, hends.mono (fun _ h => ⟨executed_of_steady h.1.steady, h.2⟩)
        fun _ h => ⟨executed_of_steady h.1.steady, h.2⟩⟩
  | true =>
    cases i with
    | strIndex16 | strIndex32 | strDisp16 | strDisp32 => exact executedRuns_storeAt _ _ _
    | strPost16 | strPost32 | strDispPost => exact executedRuns_storePost _ _ _ _
    | movts16 | movts32 => exact executedRuns_moveToCtl _ _ _
    | trap n => exact runs_runInstr (trapEffect_executed n)
    | _ => cases hw

theorem executed_of_exec {i : Instr} {s t : State} (ht : exec i s = .next t) : Executed i s t := by
  by_cases hi : i = .idle
  case pos =>
    subst hi
    rw [exec_idle] at ht
    cases ht
    have hidle : Executed .idle s (s.modMe fun c => { c with idle := true }) :=
      executed_modMe (fun _ h => h) (fun _ _ => rfl) (fun _ => rfl) (fun h => absurd rfl h) (fun h => absurd rfl h)
        fun h => absurd rfl h
    exact hidle.trans_steady (steady_complete_applyIdle 2 s.pc .idle)
  case neg =>
    have hmis : Executed i s (trigger s s.self irqSwExc (some .unalignedAccess)) :=
      executed_of_steady (steady_trigger_self _ _)
    obtain ⟨sig, u, ⟨hu, hsig⟩, ⟨width, rfl⟩ | ⟨a, w, -, rfl⟩⟩ :=
      (executedRuns_exec s hi).next ⟨hmis, Signal.next_ne_idle⟩ ht
    · exact hu.trans_steady (steady_complete width s.pc hsig)
    · exact hu.trans_steady (steady_halt u _)

/-- An extension instruction's acts are steady; only its signal can set an idle flag. -/
theorem steady_of_execExt {e : ExtInstr} {s t : State} (ht : execExt e s = .next t) :
    Steady s t ∨ (extReply s e).signal = .idle ∧ ∃ u, Steady s u ∧ Steady (applyIdle .idle u) t := by
  have hfresh := steady_fresh s (s.fresh + 1)
  have hacts := extActs_steady (extReply s e).acts hfresh
  have hmis := hfresh.trans (steady_trigger_self (s := { s with fresh := s.fresh + 1 }) irqSwExc (some .unalignedAccess))
  rw [execExt, runExt] at ht
  generalize hr : extActs (extReply s e).acts { s with fresh := s.fresh + 1 } = r at hacts ht
  cases r with
  | ok u =>
    cases ht
    by_cases hsig : (extReply s e).signal = .idle
    · refine .inr ⟨hsig, u, hacts, ?_⟩
      rw [hsig]
      exact steady_complete_applyIdle _ _ _
    · exact .inl (Steady.trans hacts (steady_complete _ _ hsig))
  | memoryFault a w u => cases ht; exact .inl (Steady.trans hacts (steady_halt u _))
  | misaligned a => cases ht; exact .inl (hmis.trans (steady_complete _ _ Signal.next_ne_idle))
  | refused x => cases ht

/-! ## Up to execute -/

/-- What the step up to execute comes to: a state with `p`, or an execute at a state with `q`. -/
def Front.Holds (p q : State → Prop) : Front → Prop
  | .done t => p t
  | .run _ u => q u
  | .runExt _ u => q u
  | .refuse _ => True
  | .stop _ => True

theorem Front.Holds.mono {p p' q q' : State → Prop} {f : Front} (h : f.Holds p q) (hp : ∀ t, p t → p' t)
    (hq : ∀ t, q t → q' t) : f.Holds p' q' := by
  cases f with
  | done t => exact hp t h
  | run i u => exact hq u h
  | runExt e u => exact hq u h
  | refuse r => trivial
  | stop x => trivial

theorem fetch_ends (s : State) : (fetch s).Ends (fun _ => True) (· = s) := by
  refine (memRead_ends s s.self s.pc .b2).bind fun h0 _ => ?_
  split
  · trivial
  · exact (memRead_ends s s.self (s.pc + 2) .b2).bind fun _ _ => trivial

theorem frontDecode_holds (s : State) : (frontDecode s).Holds (Steady s) (· = s) := by
  have hfetch := fetch_ends s
  unfold frontDecode
  split
  next => split; exacts [rfl, steady_halt s _]
  next => split; exacts [rfl, steady_halt s _]
  next => exact steady_halt s _
  next t hf =>
    rw [hf] at hfetch
    cases hfetch
    exact steady_halt s _
  next => exact steady_halt s _
  next => trivial

/-- A tick changes something else than an execute does only by delivering an interrupt. -/
theorem tick_holds (s : State) : (tick s).Holds (fun t => Steady s t ∨ update s = some t) (· = s) := by
  unfold tick
  split
  next t ht => exact .inr ht
  next =>
    split
    · exact .inl (Steady.refl s)
    split
    · exact .inl (steady_setFlag s _ _)
    split
    · exact .inl (Steady.refl s)
    split
    · exact .inl (steady_halt s _)
    · exact (frontDecode_holds s).mono (fun _ h => .inl h) fun _ h => h

theorem agentWrite_holds {s : State} {c : CoreId} (hc : Reachable s c) (addr : Word) (size : Access) (v : Word)
    {q : State → Prop} : (agentWrite s c addr size v).Holds (Steady s) q := by
  unfold agentWrite
  split
  next t ht => exact steady_memWrite hc ht
  next => trivial
  next => exact Steady.refl s

/-- The machine as an agent's act finds it: its entry of the agenda is gone, and the core that ticks, if one does,
executes. -/
structure Scheduled (s u : State) : Prop where
  inv : s.Inv → u.Inv
  cfg : u.cfg = s.cfg
  halting : s.halting = false ∧ u.halting = false
  cores : u.cores = s.cores

/-- How a step that runs no instruction ends: it is steady, or it delivers an interrupt in a core's tick, or it ends the
run. -/
def Begun (s t : State) : Prop :=
  ∃ u, Scheduled s u ∧ (Steady u t ∨ (TicksNext s u.self ∧ update u = some t) ∨
    ((∃ rest, s.agenda = .hostHalt :: rest) ∧ t = { u with halting := true }))

theorem beginStep_holds (s : State) : (beginStep s).Holds (Begun s) (Scheduled s) := by
  unfold beginStep
  split
  case isTrue => trivial
  case isFalse hgo =>
    have hgo : s.halting = false := Bool.not_eq_true _ ▸ hgo
    split
    case h_1 hagenda =>
      have hs : Scheduled s s := ⟨id, rfl, ⟨hgo, hgo⟩, rfl⟩
      refine (tick_holds s).mono (fun t ht => ⟨s, hs, ?_⟩) fun u hu => hu ▸ hs
      exact ht.imp_right fun h => .inl ⟨.inl ⟨hagenda, rfl⟩, h⟩
    case h_2 e rest hagenda =>
      have hs : Scheduled s { s with agenda := rest } :=
        ⟨fun h => ⟨h.config, h.self, h.keys, h.cores, h.ext, h.extBound⟩, rfl, ⟨hgo, hgo⟩, rfl⟩
      have hwrite : ∀ (c : CoreId) (addr : Word) (size : Access) (v : Word), (if inGrid s.cfg c then
          agentWrite { s with agenda := rest } c addr size v else .refuse .argumentError).Holds (Begun s) (Scheduled s) := by
        intro c addr size v
        split
        case isFalse => trivial
        case isTrue hc =>
          have hc : Reachable { s with agenda := rest } c := .inr hc
          exact (agentWrite_holds hc addr size v).mono (fun t ht => ⟨_, hs, .inl ht⟩) fun _ h => h
      cases e with
      | turn c =>
        rw [act]
        split
        case isFalse => trivial
        case isTrue hc =>
          have hs : Scheduled s { s with agenda := rest, self := c } :=
            ⟨fun h => ⟨h.config, hc, h.keys, h.cores, h.ext, h.extBound⟩, rfl, ⟨hgo, hgo⟩, rfl⟩
          refine (tick_holds _).mono (fun t ht => ⟨_, hs, ?_⟩) fun u hu => hu ▸ hs
          exact ht.imp_right fun h => .inl ⟨.inr ⟨rest, hagenda⟩, h⟩
      | hostWrite c addr size v => exact hwrite c addr size v
      | dmaWrite c addr size v => exact hwrite c addr size v
      | hostHalt => exact ⟨_, hs, .inr (.inr ⟨⟨rest, hagenda⟩, rfl⟩)⟩
      | hostTrigger c irq cause =>
        rw [act]
        split
        case isFalse => trivial
        case isTrue hc => exact ⟨_, hs, .inl (steady_trigger (.inr (Bool.and_eq_true_iff.mp hc).1) _ _)⟩
      | dmaTrigger c ch1 =>
        rw [act]
        split
        case isFalse => trivial
        case isTrue hc => exact ⟨_, hs, .inl (steady_trigger (.inr hc) _ _)⟩

/-- A step runs no instruction, or one of the table, or an extension instruction. -/
theorem step_cases {s t : State} (h : step s = .next t) : Begun s t ∨
    (∃ i u, beginStep s = .run i u ∧ Scheduled s u ∧ Executed i u t) ∨
    ∃ e u, beginStep s = .runExt e u ∧ Scheduled s u ∧ execExt e u = .next t := by
  have hbegin := beginStep_holds s
  unfold step at h
  generalize hf : beginStep s = f at h hbegin
  cases f with
  | done u => cases h; exact .inl hbegin
  | run i u => exact .inr (.inl ⟨i, u, rfl, hbegin, executed_of_exec h⟩)
  | runExt e u => exact .inr (.inr ⟨e, u, rfl, hbegin, h⟩)
  | refuse r => cases h
  | stop x => cases h

end Sys2Proof.Machine
end

section
/-! The rules of the whole machine (R55, R56, R59, R61), and reset. -/

namespace Sys2Proof.Machine

/-! ## Delivery (R346) -/

/-- What is delivered is the first ready level, with interrupts enabled. -/
theorem ready_of_deliverable {x : ECore} {i : Nat} (h : deliverable x = some i) :
    (x.ctl .status).getLsbD bitGid = false ∧ Ready x i ∧ ∀ j, j < i → ¬ Ready x j := by
  cases hgid : (x.ctl .status).getLsbD bitGid with
  | true => rw [deliverable_of_gid hgid] at h; cases h
  | false => exact ⟨rfl, (deliverable_eq_some_iff hgid i).mp h⟩

theorem update_eq_some {s t : State} (h : update s = some t) :
    ∃ i, deliverable s.me = some i ∧ t = s.modMe fun x => enterInterrupt s.cfg x i := by
  unfold update at h
  split at h
  next i hi => exact ⟨i, hi, (Option.some.inj h).symm⟩
  next => cases h

section
variable {s t : State} (h : update s = some t)
include h

theorem inv_of_update (hi : s.Inv) : t.Inv := by
  obtain ⟨i, -, rfl⟩ := update_eq_some h
  exact inv_modMe hi (wf_enterInterrupt (inv_window hi) (inv_me hi) s.cfg i)

theorem cfg_of_update : t.cfg = s.cfg := by
  obtain ⟨i, -, rfl⟩ := update_eq_some h
  rfl

theorem halting_of_update : t.halting = s.halting := by
  obtain ⟨i, -, rfl⟩ := update_eq_some h
  rfl

/-- Delivery changes the executing core alone, which it enters. -/
theorem core_of_update (c : CoreId) : t.core c = s.core c ∨
    c = s.self ∧ ¬ Quiet (s.core c) ∧ ∃ i, Entered s.cfg (s.core c) (t.core c) i := by
  obtain ⟨i, hi, rfl⟩ := update_eq_some h
  by_cases hc : c = s.self
  case neg => exact .inl (State.core_setCore_ne s _ hc)
  case pos =>
    subst hc
    have hcore : (s.modMe fun x => enterInterrupt s.cfg x i).core s.self = enterInterrupt s.cfg s.me i :=
      State.core_setCore_same s s.self _
    refine .inr ⟨rfl, fun hquiet => ?_, i, ?_⟩
    · have hnone := (deliverable_eq_none_iff s.me).mpr hquiet
      rw [hi] at hnone
      cases hnone
    · rw [hcore]
      exact entered_enterInterrupt s.cfg s.me (ready_of_deliverable hi).2.1.1

end

/-! ## What a step does to a core -/

theorem Scheduled.core {s u : State} (h : Scheduled s u) (c : CoreId) : u.core c = s.core c := by
  rw [State.core, h.cores]
  rfl

/-- A step that runs no instruction keeps a core's outcomes, and its idle flag unless it delivers an interrupt to it. -/
theorem core_of_begun {s t : State} (h : Begun s t) (c : CoreId) : (s.core c).Alike (t.core c) ∨
    TicksNext s c ∧ ¬ Quiet (s.core c) ∧ ∃ i, Entered s.cfg (s.core c) (t.core c) i := by
  obtain ⟨u, hu, ht | ⟨hticks, ht⟩ | ⟨-, rfl⟩⟩ := h
  · exact .inl (hu.core c ▸ ht.alike c)
  · rcases core_of_update ht c with hc | ⟨rfl, hentered⟩
    · rw [hc, hu.core]
      exact .inl (ECore.Alike.refl _)
    · rw [hu.core, hu.cfg] at hentered
      exact .inr ⟨hticks, hentered⟩
  · exact .inl (hu.core c ▸ ECore.Alike.refl _)

/-- A step of an extension instruction keeps a core's outcomes, and its idle flag unless it returns `Idle` on it. -/
theorem core_of_execExt {e : ExtInstr} {s t : State} (ht : execExt e s = .next t) (c : CoreId) :
    (s.core c).Alike (t.core c) ∨ (c = s.self ∧ (extReply s e).signal = .idle ∧ (t.core c).idle = true ∧
      (t.core c).passed = (s.core c).passed ∧ (t.core c).failed = (s.core c).failed ∧
      (t.core c).exitCode = (s.core c).exitCode) := by
  obtain hst | ⟨hsig, u, hsu, hut⟩ := steady_of_execExt ht
  · exact .inl (hst.alike c)
  · have hcore : (applyIdle .idle u).core c = if c = u.self then { u.me with idle := true } else u.core c :=
      State.core_setCore u u.self c _
    obtain ⟨hidle, hpassed, hfailed, hexit⟩ := hut.alike c
    by_cases hc : c = u.self
    · subst hc
      rw [if_pos rfl] at hcore
      rw [hcore] at hidle hpassed hfailed hexit
      obtain ⟨-, hpassed', hfailed', hexit'⟩ := hsu.alike u.self
      exact .inr ⟨hsu.self, hsig, hidle, hpassed.trans hpassed', hfailed.trans hfailed', hexit.trans hexit'⟩
    · rw [if_neg hc] at hcore
      exact .inl ((hsu.alike c).trans (hcore ▸ hut.alike c))

/-! ## The rules -/

/-- The parameters, and the invariant, after an extension instruction. -/
theorem keeps_of_execExt {e : ExtInstr} {s t : State} (ht : execExt e s = .next t) :
    (s.Inv → t.Inv) ∧ t.cfg = s.cfg ∧ t.halting = s.halting := by
  obtain hst | ⟨-, u, hsu, hut⟩ := steady_of_execExt ht
  · exact ⟨hst.inv, hst.cfg, hst.halting⟩
  · have hidle : u.Inv → (applyIdle .idle u).Inv := fun h =>
      inv_modMe (f := fun c => { c with idle := true }) h (inv_me h)
    exact ⟨fun h => hut.inv (hidle (hsu.inv h)), hut.cfg.trans hsu.cfg, hut.halting.trans hsu.halting⟩

/-- Settles O56: scheduling, delivery and every execute keep the invariant. -/
theorem stepKeepsInvariant : Obligations.StepKeepsInvariant := by
  unfold Obligations.StepKeepsInvariant
  intro s t hs h
  obtain ⟨u, hu, ht | ⟨-, ht⟩ | ⟨-, rfl⟩⟩ | ⟨i, u, -, hu, ht⟩ | ⟨e, u, -, hu, ht⟩ := step_cases h
  · exact ht.inv (hu.inv hs)
  · exact inv_of_update ht (hu.inv hs)
  · obtain ⟨hconfig, hself, hkeys, hcores, hext, hbound⟩ := hu.inv hs
    exact ⟨hconfig, hself, hkeys, hcores, hext, hbound⟩
  · exact ht.inv (hu.inv hs)
  · exact (keeps_of_execExt ht).1 (hu.inv hs)

/-- Settles O57. -/
theorem parametersAreNotState : Obligations.ParametersAreNotState := by
  unfold Obligations.ParametersAreNotState
  intro s t h
  obtain ⟨u, hu, ht | ⟨-, ht⟩ | ⟨-, rfl⟩⟩ | ⟨i, u, -, hu, ht⟩ | ⟨e, u, -, hu, ht⟩ := step_cases h
  · exact ht.cfg.trans hu.cfg
  · exact (cfg_of_update ht).trans hu.cfg
  · exact hu.cfg
  · exact ht.cfg.trans hu.cfg
  · exact (keeps_of_execExt ht).2.1.trans hu.cfg

/-- Settles O58: of what a step comes to, only the execute of IDLE and an extension instruction's `Idle` set an idle
flag, and only delivery clears one. -/
theorem idleFlagRule : Obligations.IdleFlagRule := by
  unfold Obligations.IdleFlagRule
  intro s t c h
  obtain hbegun | ⟨i, u, hrun, hu, ht⟩ | ⟨e, u, hrun, hu, ht⟩ := step_cases h
  · obtain halike | ⟨hticks, hentered⟩ := core_of_begun hbegun c
    · rw [halike.idle]
      exact ⟨fun h0 h1 => absurd (h0.symm.trans h1) Bool.false_ne_true,
        fun h0 h1 => absurd (h1.symm.trans h0) Bool.false_ne_true⟩
    · obtain ⟨-, i, hi⟩ := id hentered
      exact ⟨fun _ h1 => absurd (hi.idle.symm.trans h1) Bool.false_ne_true, fun _ _ => ⟨hticks, hentered⟩⟩
  · rw [← hu.core c]
    constructor
    · intro h0 h1
      obtain ⟨rfl, rfl⟩ := ht.idleSet c h0 h1
      exact .inl ⟨u, hrun, rfl⟩
    · intro h0 h1
      rw [ht.idleKept c h0] at h1
      cases h1
  · rw [← hu.core c]
    obtain halike | ⟨rfl, hsig, hidle, -⟩ := core_of_execExt ht c
    · rw [halike.idle]
      exact ⟨fun h0 h1 => absurd (h0.symm.trans h1) Bool.false_ne_true,
        fun h0 h1 => absurd (h1.symm.trans h0) Bool.false_ne_true⟩
    · exact ⟨fun _ _ => .inr ⟨e, u, hrun, rfl, hsig⟩, fun _ h1 => absurd (h1.symm.trans hidle) Bool.false_ne_true⟩

/-- Settles O59: of what a step comes to, only the execute of TRAP 3, 4 and 5 changes an outcome. -/
theorem outcomesOnlyByTrap : Obligations.OutcomesOnlyByTrap := by
  unfold Obligations.OutcomesOnlyByTrap
  intro s t c h
  have kept : (t.core c).passed = (s.core c).passed ∧ (t.core c).failed = (s.core c).failed ∧
      (t.core c).exitCode = (s.core c).exitCode →
      ((t.core c).exitCode ≠ (s.core c).exitCode → RunsNext s c (.trap 3)) ∧
      ((t.core c).passed ≠ (s.core c).passed → RunsNext s c (.trap 4) ∧ (t.core c).passed = true) ∧
      ((t.core c).failed ≠ (s.core c).failed → RunsNext s c (.trap 5) ∧ (t.core c).failed = true) :=
    fun ⟨hpassed, hfailed, hexit⟩ => ⟨fun h => absurd hexit h, fun h => absurd hpassed h, fun h => absurd hfailed h⟩
  obtain hbegun | ⟨i, u, hrun, hu, ht⟩ | ⟨e, u, hrun, hu, ht⟩ := step_cases h
  · obtain ⟨-, hpassed, hfailed, hexit⟩ | ⟨-, -, i, hi⟩ := core_of_begun hbegun c
    · exact kept ⟨hpassed, hfailed, hexit⟩
    · obtain ⟨hpassed, hfailed, hexit, -⟩ := hi.outcome
      exact kept ⟨hpassed, hfailed, hexit⟩
  · rw [← hu.core c]
    refine ⟨fun hne => ?exit, fun hne => ?passed, fun hne => ?failed⟩
    case exit =>
      obtain ⟨rfl, rfl⟩ := ht.exitCode c hne
      exact ⟨u, hrun, rfl⟩
    case passed =>
      obtain ⟨rfl, rfl, hset⟩ := ht.passed c hne
      exact ⟨⟨u, hrun, rfl⟩, hset⟩
    case failed =>
      obtain ⟨rfl, rfl, hset⟩ := ht.failed c hne
      exact ⟨⟨u, hrun, rfl⟩, hset⟩
  · rw [← hu.core c] at kept ⊢
    obtain ⟨-, hpassed, hfailed, hexit⟩ | ⟨-, -, -, hpassed, hfailed, hexit⟩ := core_of_execExt ht c
    · exact kept ⟨hpassed, hfailed, hexit⟩
    · exact kept ⟨hpassed, hfailed, hexit⟩

/-! ## Reset (R390) -/

theorem configOk_defaultConfig : configOk defaultConfig = true := by decide

theorem configOk_grid {cfg : Config} (h : configOk cfg = true) : 1 ≤ cfg.rows ∧ 1 ≤ cfg.cols := by
  simp only [configOk, Bool.and_eq_true, decide_eq_true_eq] at h
  tauto

theorem inv_resetFor {cfg : Config} (h : configOk cfg = true) : (State.resetFor cfg).Inv where
  config := h
  self := by
    obtain ⟨hrows, hcols⟩ := configOk_grid h
    exact Bool.and_eq_true_iff.mpr ⟨decide_eq_true hrows, decide_eq_true hcols⟩
  keys := by
    show ((gridKeys cfg).map fun k => (k, ECore.reset)).map Prod.fst = gridKeys cfg
    rw [List.map_map]
    exact List.map_id _
  cores p hp := by
    obtain ⟨k, -, rfl⟩ := List.mem_map.mp hp
    exact wf_reset
  ext := rfl
  extBound p hp := by cases hp

/-- Settles O55. -/
theorem resetMeetsInvariant : Obligations.ResetMeetsInvariant :=
  ⟨inv_resetFor configOk_defaultConfig, fun _ => inv_resetFor⟩

end Sys2Proof.Machine
end

section
/-! The acts of the other agents, and the ticks that deliver an interrupt or execute nothing (R346, R352, R355, R371 to
R373). -/

namespace Sys2Proof.Machine

/-! ## A step by what it comes to before execute -/

/-- The end of a step, from what it came to before execute. -/
def Front.finish : Front → Host.Outcome State Fault Refusal
  | .done t => .next t
  | .run i t => exec i t
  | .runExt e t => execExt e t
  | .refuse r => .refused r
  | .stop f => .fault f

theorem step_eq_finish (s : State) : step s = (beginStep s).finish := by
  unfold step Front.finish
  cases beginStep s <;> rfl

/-- What a step comes to before execute, with another agenda. -/
def Front.withAgenda (l : List Event) : Front → Front
  | .done t => .done (t.withAgenda l)
  | .run i t => .run i (t.withAgenda l)
  | .runExt e t => .runExt e (t.withAgenda l)
  | .refuse r => .refuse r
  | .stop f => .stop f

theorem finish_withAgenda (l : List Event) (f : Front) :
    (f.withAgenda l).finish = mapNext (·.withAgenda l) f.finish := by
  cases f with
  | done t => rfl
  | run i t => exact exec_withAgenda i t l
  | runExt e t => exact execExt_withAgenda t l e
  | refuse r => rfl
  | stop x => rfl

theorem fetch_withAgenda (s : State) (l : List Event) : fetch (s.withAgenda l) = (fetch s).reAgenda l id := by
  unfold fetch
  rw [State.withAgenda_self, State.pc_withAgenda, memRead_withAgenda]
  refine Res.bind_reAgenda l _ fun h0 => ?_
  dsimp only [id, State.withAgenda_cfg]
  split
  · rfl
  · rw [memRead_withAgenda]
    exact Res.bind_reAgenda l _ fun _ => rfl

theorem frontDecode_withAgenda (s : State) (l : List Event) :
    frontDecode (s.withAgenda l) = (frontDecode s).withAgenda l := by
  unfold frontDecode
  rw [fetch_withAgenda]
  cases fetch s with
  | ok found =>
    match found with
    | none => rfl
    | some (.table i) => dsimp only [Res.reAgenda, id]; split <;> rfl
    | some (.ext e) => dsimp only [Res.reAgenda, id]; split <;> rfl
  | memoryFault a w t => rfl
  | misaligned a => rfl
  | refused r => rfl

theorem update_withAgenda (s : State) (l : List Event) :
    update (s.withAgenda l) = (update s).map (·.withAgenda l) := by
  unfold update
  rw [State.me_withAgenda]
  cases deliverable s.me <;> rfl

theorem tick_withAgenda (s : State) (l : List Event) : tick (s.withAgenda l) = (tick s).withAgenda l := by
  unfold tick
  rw [update_withAgenda]
  cases update s with
  | some t => rfl
  | none =>
    dsimp only [Option.map_none, State.me_withAgenda, State.ctl_withAgenda, State.pc_withAgenda]
    rw [show (s.withAgenda l).flag bitActive = s.flag bitActive from rfl, frontDecode_withAgenda]
    exact ite_map (Front.withAgenda l) rfl rfl (ite_map _ rfl rfl (ite_map _ rfl rfl (ite_map _ rfl rfl rfl)))

/-! ## The ticks that execute nothing (R355 (d) to (g)) -/

section
variable {s : State} (hquiet : Quiet s.me)
include hquiet

theorem tick_of_idle (h : s.me.idle = true) : tick s = .done s := by
  rw [tick, (update_eq_none_iff s).mpr hquiet, h]
  rfl

theorem tick_of_debugHalt (h : s.me.idle = false) (hdebug : (s.ctl .debugStatus).getLsbD bitHalt = true) :
    tick s = .done (s.setFlag bitActive false) := by
  rw [tick, (update_eq_none_iff s).mpr hquiet, h, hdebug]
  rfl

theorem tick_of_inactive (h : s.me.idle = false) (hdebug : (s.ctl .debugStatus).getLsbD bitHalt = false)
    (hactive : s.flag bitActive = false) : tick s = .done s := by
  rw [tick, (update_eq_none_iff s).mpr hquiet, h, hdebug, hactive]
  rfl

end

/-- Settles O10: each tick ends before the fetch. -/
theorem sleepingTicks : Obligations.SleepingTicks := by
  unfold Obligations.SleepingTicks
  intro s hgo hagenda hquiet
  have hstep : ∀ t, tick s = .done t → step s = .next t := fun t ht =>
    step_of_beginStep_done ((beginStep_eq_tick hgo hagenda).trans ht)
  refine ⟨fun h => hstep s (tick_of_idle hquiet h),
    fun h hdebug => ⟨_, hstep _ (tick_of_debugHalt hquiet h hdebug), ?_, fun b hb => ?_, frame_setFlag s _ _,
      outcome_setCtl s .status _, by simp⟩, fun h hdebug hactive => hstep s (tick_of_inactive hquiet h hdebug hactive)⟩
  · rw [State.flag_setFlag s _ _ _ (by decide), if_pos rfl]
  · rw [State.flag_setFlag s _ _ _ (by decide), if_neg hb]

/-! ## Priority, and the return from an interrupt (R347, R352) -/

/-- Settles O12: the lower level is ready and first; of the levels at or below a pending one none is entered. -/
theorem lowerLevelWins : Obligations.LowerLevelWins := by
  unfold Obligations.LowerLevelWins
  refine ⟨fun s i j hij hj hgid hpend hi hij' hmask _ hlow => ?_, fun s t i j hij hj hpend ht => ?_⟩
  · have hready : Ready s.me i := ⟨by omega, hi, hmask, fun k hk => hpend k (by omega)⟩
    have hupdate := update_of_deliverable ((deliverable_eq_some_iff hgid i).mpr ⟨hready, hlow⟩)
    have hentered : Entered s.cfg s.me (s.modMe fun x => enterInterrupt s.cfg x i).me i := by
      rw [State.me_modMe]
      exact entered_enterInterrupt s.cfg s.me hready.1
    have hne : (j == i) = false := beq_eq_false_iff_ne.mpr hij.ne'
    refine ⟨_, hupdate, hentered, fun hgo hagenda => ?_, ?_, ?_⟩
    · exact step_of_beginStep_done ((beginStep_eq_tick hgo hagenda).trans (tick_of_update hupdate))
    · exact (hentered.ilat j).trans (by rw [bne, hne]; exact hij')
    · exact (hentered.ipend j).trans (by rw [hne]; exact hpend j hj)
  · obtain ⟨k, hk, rfl⟩ := update_eq_some ht
    obtain ⟨-, ⟨hk9, -, -, hnone⟩, -⟩ := ready_of_deliverable hk
    have hki : k < i := by
      by_contra hle
      exact absurd (hpend.symm.trans (hnone i (by omega))) (by decide)
    have hentered : Entered s.cfg s.me (s.modMe fun x => enterInterrupt s.cfg x k).me k := by
      rw [State.me_modMe]
      exact entered_enterInterrupt s.cfg s.me hk9
    have hne : (j == k) = false := beq_eq_false_iff_ne.mpr (by omega)
    refine ⟨fun h => ?_, ?_, ?_⟩
    · have hbit := (h.ilat k).symm.trans (hentered.ilat k)
      have hready := (ready_of_deliverable hk).2.1.2.1
      have hkj : (k == j) = false := beq_eq_false_iff_ne.mpr (by omega)
      rw [hready, bne, bne, hkj, BEq.rfl] at hbit
      cases hbit
    · exact (hentered.ilat j).trans (by rw [bne, hne]; rfl)
    · exact (hentered.ipend j).trans (by rw [hne]; rfl)

/-- Settles O13: the level entered is the only one pending, so it is the one RTI clears. -/
theorem returnUndoesEntry : Obligations.ReturnUndoesEntry := by
  unfold Obligations.ReturnUndoesEntry
  intro s t hpend ht hend
  obtain ⟨i, hi, rfl⟩ := update_eq_some ht
  have hi9 : i < 9 := (ready_of_deliverable hi).2.1.1
  set t := s.modMe fun x => enterInterrupt s.cfg x i with htdef
  have hentered : Entered s.cfg s.me t.me i := by
    rw [htdef, State.me_modMe]
    exact entered_enterInterrupt s.cfg s.me hi9
  obtain ⟨u, hu, hpending, -, hgid, -, hcompleted⟩ := returnFromInterruptCompletes t
  have hpendT : ∀ b, (t.ctl .ipend).getLsbD b = (b == i || (s.ctl .ipend).getLsbD b) := hentered.ipend
  refine ⟨u, hu, ?pc, ?ipend, hgid, fun j => ?reg⟩
  case pc => exact (hcompleted.advanced.straight hend).1.trans hentered.iret
  case ipend =>
    have hlow : ∀ j, j < i → (t.ctl .ipend).getLsbD j = false := fun j hj => by
      rw [hpendT, hpend j (by omega), beq_eq_false_iff_ne.mpr hj.ne, Bool.false_or]
    have hset : (t.ctl .ipend).getLsbD i = true := by rw [hpendT, BEq.rfl, Bool.true_or]
    refine BitVec.eq_of_getLsbD_eq fun b _ => ?_
    rw [hpending i hi9 hset hlow b, hpendT]
    by_cases hb : b = i
    · rw [hb, hpend i hi9, bne_self_eq_false, Bool.false_and]
    · rw [bne_iff_ne.mpr hb, beq_eq_false_iff_ne.mpr hb, Bool.true_and, Bool.false_or]
  case reg =>
    have hout : ∀ ks : List Ctl, j.toNat ∉ ks.map Ctl.index := by
      intro ks hmem
      obtain ⟨r, -, hr⟩ := List.mem_map.mp hmem
      exact Ctl.index_ne_reg r j hr
    exact (hcompleted.frame.words _ (hout [.pc, .lc, .ipend, .status])).trans
      (hentered.words _ (hout [.iret, .pc, .ilat, .ipend, .status]))

/-! ## The other agents (R371 to R373) -/

theorem beginStep_eq_act {s : State} {e : Event} {rest : List Event} (hgo : s.halting = false)
    (hagenda : s.agenda = e :: rest) : beginStep s = act (s.withAgenda rest) e := by
  unfold beginStep
  rw [if_neg (by rw [hgo]; exact Bool.false_ne_true), hagenda]
  rfl

/-- A turn of a core of the grid is that core's tick. -/
theorem beginStep_turn {s : State} {c : CoreId} {rest : List Event} (hgo : s.halting = false)
    (hgrid : inGrid s.cfg c = true) (hagenda : s.agenda = .turn c :: rest) :
    beginStep s = tick { s with self := c, agenda := rest } := by
  rw [beginStep_eq_act hgo hagenda, act]
  exact if_pos hgrid

theorem agentWrite_of_fault {s : State} {c : CoreId} {addr : Word} {size : Access} (v : Word)
    (h : aligned addr (accessBytes size) = false ∨ translate s.cfg c addr = .invalid) :
    agentWrite s c addr size v = .done s := by
  unfold agentWrite
  cases ha : aligned addr (accessBytes size) with
  | false => rw [memWrite_misaligned s c v ha]
  | true => rw [memWrite_invalid s v ha (h.resolve_left (by rw [ha]; decide))]

/-- A trigger by an agent latches the level on its core and changes no other core. -/
theorem trigger_spec (s : State) (c : CoreId) (irq : Fin 9) (cause : Option Cause) :
    LatchSet ((s.core c).ctl .ilat) (((trigger s c irq cause).core c).ctl .ilat) irq ∧
      (∀ q, cause = some q →
        CauseWritten s.cfg ((s.core c).ctl .status) (((trigger s c irq cause).core c).ctl .status) q) ∧
      (cause = none → ((trigger s c irq cause).core c).ctl .status = (s.core c).ctl .status) ∧
      ∀ d, d ≠ c → (trigger s c irq cause).core d = s.core d := by
  have hcore : (trigger s c irq cause).core c = (s.core c).latch s.cfg irq cause := State.core_setCore_same s c _
  obtain ⟨hlatch, hcause, hnone, -⟩ := latch_spec s.cfg (s.core c) irq cause
  rw [hcore]
  exact ⟨hlatch, hcause, hnone, fun d hd => State.core_setCore_ne s _ hd⟩

theorem pairingOk_iff (irq : Fin 9) (cause : Option Cause) :
    pairingOk irq cause = true ↔ (cause.isSome = true ↔ irq = 1 ∨ irq = 8) := by
  rw [pairingOk, beq_iff_eq, Bool.eq_iff_iff, Bool.or_eq_true, beq_iff_eq, beq_iff_eq]
  rfl

section
variable {s : State} {c : CoreId} {rest : List Event} (hgo : s.halting = false) (hgrid : inGrid s.cfg c = true)
include hgo hgrid

/-- The tick of the core whose turn it is, as a step of its own. -/
theorem step_turn (hagenda : s.agenda = .turn c :: rest) :
    step s = mapNext (·.withAgenda rest) (step { s with self := c, agenda := [] }) := by
  rw [step_eq_finish, step_eq_finish, beginStep_turn hgo hgrid hagenda,
    beginStep_eq_tick (s := { s with self := c, agenda := [] }) hgo rfl]
  exact (congrArg Front.finish (tick_withAgenda { s with self := c, agenda := [] } rest)).trans
    (finish_withAgenda rest _)

theorem step_turn_running (hagenda : s.agenda = .turn c :: rest) {u : State} (hu : { s with self := c, agenda := rest } = u)
    {i : Instr} {h0 : Half} (hrun : Running (u.withAgenda [])) (hhalf : HalfAt u u.pc h0)
    (hd : decode16 s.cfg.decode h0 = some (.table i)) (hi : i.WellFormed) : step s = exec i u := by
  subst hu
  have hfront : frontDecode { s with self := c, agenda := rest } = .run i { s with self := c, agenda := rest } := by
    rw [frontDecode, fetch_found (h1 := h0) hhalf (.inl hd)]
    exact if_pos hi
  have heven : ¬ (State.pc { s with self := c, agenda := rest }).getLsbD 0 = true := by
    rw [show (State.pc { s with self := c, agenda := rest }).getLsbD 0 = false from hrun.even]
    exact Bool.false_ne_true
  have htick := tick_of_active (s := { s with self := c, agenda := rest }) hrun.quiet hrun.awake hrun.debug hrun.active
  rw [step_eq_finish, beginStep_turn hgo hgrid hagenda, htick, if_neg heven, hfront]
  rfl

end

/-- Settles O15: an act is looked up in the agenda; a turn is a tick, which does not look at the agenda. -/
theorem otherAgentsAct : Obligations.OtherAgentsAct := by
  unfold Obligations.OtherAgentsAct
  refine ⟨fun s rest c hgo hgrid => ⟨fun hagenda => ?turn, fun addr size v e he hagenda => ?write,
      fun irq cause hagenda hpair => ?hostTrigger, fun ch1 hagenda => ?dmaTrigger⟩,
    fun s rest hgo hagenda => ?halt, fun s hgo => ?ended, fun s t ht hgo => ?only⟩
  case turn =>
    have hdone : ∀ t, tick { s with self := c, agenda := rest } = .done t → step s = .next t := fun t ht =>
      step_of_beginStep_done ((beginStep_turn hgo hgrid hagenda).trans ht)
    exact ⟨step_turn hgo hgrid hagenda, fun t ht => hdone t (tick_of_update ht),
      fun hquiet hidle => hdone _ (tick_of_idle hquiet hidle),
      fun i h0 hrun hhalf hd hi => step_turn_running hgo hgrid hagenda rfl hrun hhalf hd hi⟩
  case write =>
    have hbegin : beginStep s = agentWrite (s.withAgenda rest) c addr size v := by
      rw [beginStep_eq_act hgo hagenda]
      rcases he with rfl | rfl <;> exact if_pos hgrid
    refine ⟨fun m hm => step_of_beginStep_done ?_, fun hfault => step_of_beginStep_done ?_⟩
    · rw [hbegin, agentWrite, show memWrite (s.withAgenda rest) c addr size v = .ok m from hm]
    · exact hbegin.trans (agentWrite_of_fault (s := s.withAgenda rest) v hfault)
  case hostTrigger =>
    have hbegin : beginStep s = .done (trigger (s.withAgenda rest) c irq cause) := by
      rw [beginStep_eq_act hgo hagenda]
      exact if_pos (Bool.and_eq_true_iff.mpr ⟨hgrid, (pairingOk_iff irq cause).mpr hpair⟩)
    obtain ⟨hlatch, hcause, -, hothers⟩ := trigger_spec (s.withAgenda rest) c irq cause
    exact ⟨_, step_of_beginStep_done hbegin, hlatch, hcause, hothers, rfl⟩
  case dmaTrigger =>
    have hbegin : beginStep s =
        .done (trigger (s.withAgenda rest) c (if ch1 then s.cfg.irqDma1 else s.cfg.irqDma0) none) := by
      rw [beginStep_eq_act hgo hagenda]
      exact if_pos hgrid
    obtain ⟨hlatch, -, hnone, hothers⟩ :=
      trigger_spec (s.withAgenda rest) c (if ch1 then s.cfg.irqDma1 else s.cfg.irqDma0) none
    exact ⟨_, step_of_beginStep_done hbegin, by rwa [apply_ite Fin.val] at hlatch, hnone rfl, hothers, rfl⟩
  case halt => exact step_of_beginStep_done (beginStep_eq_act hgo hagenda)
  case ended => rw [step_eq_finish, beginStep, if_pos hgo]; rfl
  case only =>
    obtain ⟨u, hu, hut | ⟨-, hut⟩ | ⟨hagenda, -⟩⟩ | ⟨i, u, -, hu, hut⟩ | ⟨e, u, -, hu, hut⟩ := step_cases ht
    · rw [hut.halting, hu.halting.2] at hgo; cases hgo
    · rw [halting_of_update hut, hu.halting.2] at hgo; cases hgo
    · exact hagenda
    · rw [hut.halting, hu.halting.2] at hgo; cases hgo
    · rw [(keeps_of_execExt hut).2.2, hu.halting.2] at hgo; cases hgo

end Sys2Proof.Machine
end

section
/-! Memory as bytes (20_memory.md): accesses stay whole (R83), reads and writes by bytes (R84 to R86), and writes into a
register window narrower than a word (R47). -/

namespace Sys2Proof.Machine

/-! ## Bounds (R83) -/

theorem inBounds_of_aligned {cfg : Config} (hc : configOk cfg = true) {self : CoreId} {a : Word} {size : Access}
    (ha : aligned a (accessBytes size) = true) (ht : translate cfg self a ≠ .invalid) :
    inBounds cfg (translate cfg self a) size = true := by
  cases hg : translate cfg self a with
  | invalid => exact absurd hg ht
  | external off =>
    have hn : accessBytes size = 1 ∨ accessBytes size = 2 ∨ accessBytes size = 4 ∨ accessBytes size = 8 := by
      cases size <;> decide
    exact decide_eq_true (aligned_external hc hn ha hg)
  | core c off =>
    have hn : accessBytes size ∣ 2 ^ 20 := by cases size <;> decide
    exact decide_eq_true (aligned_core hg hn ha).2

/-- Settles O18. -/
theorem alignedAccessesStayWhole : Obligations.AlignedAccessesStayWhole := by
  unfold Obligations.AlignedAccessesStayWhole
  exact fun cfg self a hc ht => ⟨fun size ha => inBounds_of_aligned hc ha ht,
    fun ha => translate_add_four hc self ((aligned_iff a 8).mp ha)⟩

/-! ## Reads of words of a window (R22, R84) -/

/-- An aligned word read in the window is the word there. -/
theorem ECore.load_of_inWindow (x : ECore) {w : RegWindow} (hk : windowOk w = true) {off : Nat} (ha : off % 4 = 0)
    (hw : inWindow w off = true) : x.load w off .b4 = x.word ((off - w.base) / 4) := by
  have hbyte : windowByte w off = 0 := by
    obtain ⟨hbase, -⟩ := (windowOk_iff w).mp hk
    obtain ⟨hlo, -⟩ := (inWindow_iff w off).mp hw
    rw [windowByte]
    omega
  have hmask : fieldMask 0 (8 * accessBytes .b4) = BitVec.allOnes 32 := rfl
  rw [ECore.load, if_pos hw, hbyte, hmask, Nat.mul_zero, BitVec.ushiftRight_zero, BitVec.and_allOnes, windowIndex]

theorem rangeOk_iff (w : RegWindow) (r : OffsetRange) : rangeOk w r = true ↔
    r.lo % 8 = 0 ∧ r.hi % 8 = 0 ∧ r.hi ≤ localSize ∧ (r.hi ≤ w.base ∨ w.base + 256 ≤ r.lo) := by
  simp only [rangeOk, Bool.and_eq_true, Bool.or_eq_true, beq_iff_eq, decide_eq_true_eq, and_assoc]

theorem configOk_ranges {cfg : Config} (h : configOk cfg = true) :
    rangeOk cfg.window cfg.reservedA = true ∧ rangeOk cfg.window cfg.reservedB = true := by
  simp only [configOk, Bool.and_eq_true] at h
  tauto

/-- The reserved ranges are off the general registers (R74, R175). -/
theorem reserved_reg {cfg : Config} (h : configOk cfg = true) (i : RegIdx) :
    reserved cfg (cfg.window.base + 4 * i.toNat) = false := by
  obtain ⟨hA, hB⟩ := configOk_ranges h
  obtain ⟨-, -, -, hA⟩ := (rangeOk_iff _ _).mp hA
  obtain ⟨-, -, -, hB⟩ := (rangeOk_iff _ _).mp hB
  have hi := regIdx_lt i
  rw [← Bool.not_eq_true, reserved_iff]
  omega

/-- Settles O19. -/
theorem readsAreTheBytes : Obligations.ReadsAreTheBytes := by
  unfold Obligations.ReadsAreTheBytes
  refine ⟨fun s c a size hc ha ht => ?_, fun s i hc => ?_⟩
  · obtain ⟨v, hv, hbytes⟩ := memRead_bytes hc ha ht
    refine ⟨v, hv, hbytes, ?_⟩
    rintro d off hd hlo hhi rfl
    rw [memRead_core s ha hd] at hv
    have hw : inWindow s.cfg.window off = true := (inWindow_iff _ _).mpr ⟨hlo, hhi⟩
    rw [← Res.ok.inj hv, ECore.load_of_inWindow _ (configOk_window hc) (aligned_core hd (by decide) ha).1 hw]
  · exact memRead_windowWord hc (Nat.lt_trans (regIdx_lt i) (by decide)) (reserved_reg hc i)

/-! ## Writes outside the register windows (R85) -/

/-- A write outside every register window: at most the bytes of `run` changed. -/
structure Written (s t : State) (run : Target → Prop) : Prop where
  bytes : ∀ h, ¬ run h → t.byteOf h = s.byteOf h
  words : ∀ d k, (t.core d).word k = (s.core d).word k
  cores : ∀ d, (t.core d).idle = (s.core d).idle ∧ (t.core d).passed = (s.core d).passed ∧
    (t.core d).failed = (s.core d).failed ∧ (t.core d).exitCode = (s.core d).exitCode ∧
    (t.core d).notes = (s.core d).notes
  cfg : t.cfg = s.cfg
  halting : t.halting = s.halting
  self : t.self = s.self
  agenda : t.agenda = s.agenda

theorem Written.trans {s t u : State} {run : Target → Prop} (h : Written s t run) (g : Written t u run) :
    Written s u run where
  bytes b hb := (g.bytes b hb).trans (h.bytes b hb)
  words d k := (g.words d k).trans (h.words d k)
  cores d := by
    obtain ⟨hidle, hpassed, hfailed, hexit, hnotes⟩ := h.cores d
    obtain ⟨gidle, gpassed, gfailed, gexit, gnotes⟩ := g.cores d
    exact ⟨gidle.trans hidle, gpassed.trans hpassed, gfailed.trans hfailed, gexit.trans hexit, gnotes.trans hnotes⟩
  cfg := g.cfg.trans h.cfg
  halting := g.halting.trans h.halting
  self := g.self.trans h.self
  agenda := g.agenda.trans h.agenda

theorem Written.mono {s t : State} {run run' : Target → Prop} (h : Written s t run) (hr : ∀ g, run g → run' g) :
    Written s t run' where
  bytes b hb := h.bytes b (mt (hr b) hb)
  words := h.words
  cores := h.cores
  cfg := h.cfg
  halting := h.halting
  self := h.self
  agenda := h.agenda

theorem Written.me_word {s t : State} {run : Target → Prop} (h : Written s t run) (k : Nat) :
    t.me.word k = s.me.word k := by
  rw [State.me, State.me, h.self]
  exact h.words s.self k

theorem Written.stored {s t : State} {run : Target → Prop} (h : Written s t run) : Stored s t run := by
  obtain ⟨hidle, hpassed, hfailed, hexit, hnotes⟩ := h.cores s.self
  have hme : t.me = t.core s.self := by rw [State.me, h.self]
  exact ⟨⟨fun k _ => h.me_word k, fun b _ hb => h.bytes b hb, fun d _ => h.words d, fun d _ => h.cores d, h.cfg, h.halting,
    h.self, h.agenda⟩, ⟨hme ▸ hidle, hme ▸ hpassed, hme ▸ hfailed, hme ▸ hexit⟩, hme ▸ hnotes⟩

section
variable (s : State) (off : Nat) (size : Access) (v : Word)

theorem byteOf_writeExt (k : Nat) : State.byteOf { s with ext := writeBytes s.ext off v size } (.external k) =
    if off ≤ k ∧ k < off + accessBytes size then v.extractLsb' (8 * (k - off)) 8 else s.byteOf (.external k) :=
  mapGet_writeBytes s.ext off v size k

theorem written_writeExt :
    Written s { s with ext := writeBytes s.ext off v size } (inRun (.external off) (accessBytes size)) where
  bytes g hg := by
    cases g with
    | core d k => rfl
    | invalid => rfl
    | external k =>
      rw [byteOf_writeExt, if_neg]
      rintro ⟨hlo, hhi⟩
      exact hg ⟨k - off, by omega, by rw [Target.plus, Nat.add_sub_cancel' hlo]⟩
  words _ _ := rfl
  cores _ := ⟨rfl, rfl, rfl, rfl, rfl⟩
  cfg := rfl
  halting := rfl
  self := rfl
  agenda := rfl

theorem written_storeLocal (c : CoreId) :
    Written s (s.storeLocal c off size v) (inRun (.core c off) (accessBytes size)) where
  bytes _ hg := s.byteOf_storeLocal_of_not_run c off size v hg
  words d k := by rw [State.core_storeLocal]; rfl
  cores d := by rw [State.core_storeLocal]; exact ⟨rfl, rfl, rfl, rfl, rfl⟩
  cfg := rfl
  halting := rfl
  self := rfl
  agenda := rfl

end

theorem memWrite_plain {s : State} (hc : configOk s.cfg = true) {c : CoreId} {a : Word} {size : Access} (v : Word)
    {g : Target} (ha : aligned a (accessBytes size) = true) (ht : translate s.cfg c a = g)
    (hg : g.plain s.cfg.window = true) : ∃ t, memWrite s c a size v = .ok t ∧
      (∀ j, j < accessBytes size → t.byteOf (g.plus j) = v.extractLsb' (8 * j) 8) ∧
      Written s t (inRun g (accessBytes size)) := by
  cases g with
  | invalid => cases hg
  | external off =>
    refine ⟨_, memWrite_external hc v ha ht, fun j hj => ?_, written_writeExt s off size v⟩
    rw [Target.plus, byteOf_writeExt, if_pos ⟨by omega, by omega⟩, Nat.add_sub_cancel_left]
  | core d off =>
    have hw : inWindow s.cfg.window off = false := by
      rwa [Target.plain, Bool.not_eq_true'] at hg
    refine ⟨_, memWrite_core s ha ht (ECore.store_plain _ size v hw), fun j hj => ?_, written_storeLocal s off size v d⟩
    have hdvd : accessBytes size ∣ 2 ^ 20 := by cases size <;> decide
    refine State.byteOf_storeLocal_run s d off size v hj ?_
    rw [inWindow_add (configOk_window hc) size (aligned_core ht hdvd ha).1 hj, hw]

/-- Settles O20. -/
theorem writesChangeTheirBytes : Obligations.WritesChangeTheirBytes := by
  unfold Obligations.WritesChangeTheirBytes
  intro s c a size v g hc ha ht hg
  obtain ⟨t, hok, hrun, hbytes, hwords, hcores, hcfg, hhalting, hself, hagenda⟩ := memWrite_plain hc v ha ht hg
  exact ⟨t, hok, hrun, hbytes, hwords, hcores, hcfg, hhalting, hself, hagenda⟩

/-! ## Narrow writes into a register window (R47) -/

theorem sideEffectWord_iff (k : Nat) : sideEffectWord k = true ↔ k ∈ [Ctl.index .status, Ctl.index .fstatus,
    Ctl.index .ilatSt, Ctl.index .ilatCl, Ctl.index .debugCmd, Ctl.index .resetCore] := by
  simp only [sideEffectWord, Bool.or_eq_true, beq_iff_eq, List.mem_cons, List.not_mem_nil, or_false, or_assoc]

section
variable (x : ECore) {w : RegWindow} {off : Nat} {size : Access} (v : Word) (hw : inWindow w off = true)
  (hsize : size ≠ .b4)
include hw hsize

theorem ECore.store_sideEffect (h : sideEffectWord (windowIndex w off) = true) : x.store w off size v = none := by
  unfold ECore.store
  rw [if_pos hw]
  split
  next => exact absurd rfl hsize
  next => exact if_pos h

theorem ECore.store_narrow (h : sideEffectWord (windowIndex w off) = false) : x.store w off size v =
    some (x.setWord (windowIndex w off)
      (setField (x.word (windowIndex w off)) (8 * windowByte w off) (8 * accessBytes size) v)) := by
  have h : ¬ sideEffectWord (windowIndex w off) = true := by rw [h]; exact Bool.false_ne_true
  unfold ECore.store
  rw [if_pos hw]
  split
  next => exact absurd rfl hsize
  next => exact if_neg h

end

/-- A byte of a word one of whose fields of whole bytes was written. -/
theorem byte_setField {old v : Word} {pos len q : Nat} (hlen : pos + len ≤ 4) :
    (setField old (8 * pos) (8 * len) v).extractLsb' (8 * q) 8 =
      if pos ≤ q ∧ q < pos + len then v.extractLsb' (8 * (q - pos)) 8 else old.extractLsb' (8 * q) 8 := by
  refine BitVec.eq_of_getLsbD_eq fun i hi => ?_
  rw [BitVec.getLsbD_extractLsb', getLsbD_setField _ _ _ _ _ (by omega)]
  by_cases hin : pos ≤ q ∧ q < pos + len
  · have hpos : 8 * q + i - 8 * pos = 8 * (q - pos) + i := by omega
    rw [if_pos hin, if_pos (by omega), BitVec.getLsbD_extractLsb', hpos]
  · rw [if_neg hin, if_neg (by omega), BitVec.getLsbD_extractLsb']

/-- Two offsets of the window with the same word and the same byte in it are the same. -/
theorem windowIndex_byte_inj {w : RegWindow} {a b : Nat} (ha : w.base ≤ a) (hb : w.base ≤ b)
    (hi : windowIndex w a = windowIndex w b) (hy : windowByte w a = windowByte w b) : a = b := by
  simp only [windowIndex, windowByte] at hi hy
  omega

section
variable (x : ECore) {w : RegWindow} (hk : windowOk w = true) {off : Nat} {size : Access} (v : Word)
  (hw : inWindow w off = true) (ha : off % accessBytes size = 0)
include hk hw ha

theorem ECore.byte_setWord_run {j : Nat} (hj : j < accessBytes size) :
    (x.setWord (windowIndex w off)
      (setField (x.word (windowIndex w off)) (8 * windowByte w off) (8 * accessBytes size) v)).byte w (off + j) =
      v.extractLsb' (8 * j) 8 := by
  obtain ⟨hindex, hbyte, hroom, -⟩ := window_add hk size hw ha hj
  rw [ECore.byte_window _ (by rw [inWindow_add hk size ha hj, hw]), hindex, hbyte, ECore.word_setWord, if_pos rfl,
    byte_setField hroom, if_pos ⟨by omega, by omega⟩, Nat.add_sub_cancel_left]

theorem ECore.byte_setWord_of_not_run {o : Nat} (ho : ∀ j, j < accessBytes size → o ≠ off + j) :
    (x.setWord (windowIndex w off)
      (setField (x.word (windowIndex w off)) (8 * windowByte w off) (8 * accessBytes size) v)).byte w o =
      x.byte w o := by
  have hpos : 0 < accessBytes size := by cases size <;> decide
  obtain ⟨-, -, hroom, -⟩ := window_add hk size hw ha hpos
  cases hwo : inWindow w o with
  | false => rw [ECore.byte_mem _ hwo, ECore.byte_mem _ hwo]; rfl
  | true =>
    rw [ECore.byte_window _ hwo, ECore.byte_window _ hwo, ECore.word_setWord]
    split
    case isFalse => rfl
    case isTrue hindex =>
      rw [byte_setField hroom, if_neg, hindex]
      rintro ⟨hlo, hhi⟩
      have hj : windowByte w o - windowByte w off < accessBytes size := by omega
      obtain ⟨hindex', hbyte', -⟩ := window_add hk size hw ha hj
      refine ho _ hj (windowIndex_byte_inj ((inWindow_iff w o).mp hwo).1 ?_ (hindex.trans hindex'.symm) (by omega))
      have := ((inWindow_iff w off).mp hw).1
      omega

end

/-- Settles O22: a narrow write is refused or sets a field of whole bytes of the word there. -/
theorem narrowWindowWrites : Obligations.NarrowWindowWrites := by
  unfold Obligations.NarrowWindowWrites
  intro s c d a off size v hc hsize ha ht hw
  refine ⟨fun hk => ?refused, fun hk => ?written⟩
  case refused =>
    exact memWrite_core_refused s ha ht (ECore.store_sideEffect _ v hw hsize ((sideEffectWord_iff _).mpr hk))
  case written =>
    have hplain : sideEffectWord (windowIndex s.cfg.window off) = false :=
      Bool.not_eq_true _ ▸ mt (sideEffectWord_iff _).mp hk
    have hdvd : accessBytes size ∣ 2 ^ 20 := by cases size <;> decide
    have hoff := (aligned_core ht hdvd ha).1
    refine ⟨_, memWrite_core s ha ht (ECore.store_narrow _ v hw hsize hplain), fun j hj => ?_, fun h hh => ?_⟩
    · show ((State.setCore s d _).core d).byte s.cfg.window (off + j) = _
      rw [State.core_setCore_same]
      exact ECore.byte_setWord_run _ (configOk_window hc) v hw hoff hj
    · cases h with
      | external k => rfl
      | invalid => rfl
      | core e o =>
        show ((State.setCore s d _).core e).byte s.cfg.window o = (s.core e).byte s.cfg.window o
        by_cases he : e = d
        · subst he
          rw [State.core_setCore_same]
          exact ECore.byte_setWord_of_not_run _ (configOk_window hc) v hw hoff fun j hj hoj => hh ⟨j, hj, by rw [hoj]; rfl⟩
        · rw [State.core_setCore_ne _ _ he]

end Sys2Proof.Machine
end

section
/-! The stores (R228 to R231), into plain memory, into a register window and to nowhere, and MOVTS (R204), the
memory-mapped write of a control register. -/

namespace Sys2Proof.Machine

/-! ## What leaves all memory outside the windows alone -/

/-- Every byte of memory outside the register windows is the same. -/
structure SameMemory (s t : State) : Prop where
  mem : ∀ d, (t.core d).mem = (s.core d).mem
  ext : t.ext = s.ext

section
variable {s t u : State}

theorem SameMemory.refl (s : State) : SameMemory s s := ⟨fun _ => rfl, rfl⟩

theorem SameMemory.trans (h : SameMemory s t) (g : SameMemory t u) : SameMemory s u :=
  ⟨fun d => (g.mem d).trans (h.mem d), g.ext.trans h.ext⟩

theorem SameMemory.me (h : SameMemory s t) (hself : t.self = s.self) : t.me.mem = s.me.mem := by
  rw [State.me, State.me, hself]
  exact h.mem s.self

variable (s)

theorem sameMemory_setCore (c : CoreId) {x : ECore} (hx : x.mem = (s.core c).mem) : SameMemory s (s.setCore c x) := by
  refine ⟨fun d => ?_, rfl⟩
  rw [State.core_setCore]
  split
  case isTrue hd => exact hd ▸ hx
  case isFalse => rfl

theorem sameMemory_setReg (i : RegIdx) (v : Word) : SameMemory s (s.setReg i v) := sameMemory_setCore s s.self rfl

theorem sameMemory_setCtl (r : Ctl) (v : Word) : SameMemory s (s.setCtl r v) := sameMemory_setCore s s.self rfl

theorem sameMemory_note (n : Note) : SameMemory s (s.note n) := sameMemory_setCore s s.self rfl

theorem sameMemory_complete_next (width : Nat) (a : Word) : SameMemory s (complete width a .next s) := by
  rw [complete_next]
  refine SameMemory.trans ?_ (sameMemory_note _ _)
  split
  · exact (sameMemory_setCtl s _ _).trans (sameMemory_setCtl _ _ _)
  · exact sameMemory_setCtl s _ _

theorem sameMemory_setBase (x : Transfer) : SameMemory s (x.setBase s) := by
  cases h : x.base with
  | none => rw [x.setBase_of_none s h]; exact SameMemory.refl s
  | some p => rw [x.setBase_of_some s h]; exact sameMemory_setReg s p.1 p.2

end

/-! ## Words written to a window, by their addresses -/

theorem memWrite_windowWord {s : State} (hc : configOk s.cfg = true) {k : Nat} (hk : k < 512)
    (hfree : reserved s.cfg (s.cfg.window.base + 4 * k) = false) (v : Word) :
    memWrite s s.self (BitVec.ofNat 32 (s.cfg.window.base + 4 * k)) .b4 v = .ok (s.modMe fun x => x.writeWord k v) := by
  have hw := configOk_window hc
  have ht := (translate_windowWord hc s.self hk).trans (localTarget_of_not_reserved s.self (Bool.not_eq_true _ ▸ hfree))
  rw [memWrite_core s (aligned_windowWord hw hk) ht (ECore.store_word _ v (inWindow_windowWord hw hk)),
    windowIndex_windowWord]
  rfl

theorem memWrite_windowWord_reserved {s : State} (hc : configOk s.cfg = true) {k : Nat} (hk : k < 512)
    (hres : reserved s.cfg (s.cfg.window.base + 4 * k) = true) (v : Word) :
    memWrite s s.self (BitVec.ofNat 32 (s.cfg.window.base + 4 * k)) .b4 v =
      .memoryFault (BitVec.ofNat 32 (s.cfg.window.base + 4 * k)) true s :=
  memWrite_invalid s v (aligned_windowWord (configOk_window hc) hk)
    ((translate_windowWord hc s.self hk).trans (localTarget_of_reserved s.self hres))

/-! ## MOVTS (R204) -/

theorem exec_movts16 (rd : RegLow) (sn : BitVec 3) (s : State) :
    exec (.movts16 rd sn) s = moveToCtl 2 s 0 (lowReg sn) (lowReg rd) := rfl

theorem exec_movts32 (rd : RegIdx) (sn : BitVec 6) (group : BitVec 2) (s : State) :
    exec (.movts32 rd sn group) s = moveToCtl 4 s group sn rd := rfl

/-- The end of an instruction whose execute wrote the executing core's window. -/
theorem complete_of_wrote (s : State) (width : Nat) {f : ECore → ECore} {y : ECore} (hy : f s.me = y)
    (hmem : y.mem = s.me.mem) :
    let t := complete width s.pc .next (s.modMe f)
    (∀ j, j ∉ [Ctl.index .pc, Ctl.index .lc] → t.me.word j = y.word j) ∧
    (s.pc = y.ctl .le ∧ y.ctl .lc ≠ 0 → t.pc = y.ctl .ls ∧ t.ctl .lc = y.ctl .lc - 1) ∧
    (¬(s.pc = y.ctl .le ∧ y.ctl .lc ≠ 0) → t.pc = y.ctl .pc + BitVec.ofNat 32 width ∧ t.ctl .lc = y.ctl .lc) ∧
    t.me.mem = s.me.mem ∧ t.ext = s.ext ∧ ∀ c, c ≠ s.self → t.core c = s.core c := by
  subst hy
  have hctl : ∀ r, (s.modMe f).ctl r = (f s.me).ctl r := fun r => by rw [State.ctl, State.me_modMe]
  have hframe := frame_complete width s.pc .next (s.modMe f)
  have hsame := (sameMemory_setCore s s.self hmem).trans (sameMemory_complete_next (s.modMe f) width s.pc)
  refine ⟨fun j hj => ?_, fun h => ?_, fun h => ?_, hsame.me hframe.self, hsame.ext, fun c hc => ?_⟩
  · rw [hframe.words j hj, State.me_modMe]
  · rw [← hctl, ← hctl] at h ⊢
    exact complete_of_loop width .next h
  · rw [← hctl, ← hctl] at h
    obtain ⟨hlc, hpc⟩ := complete_of_not_loop width .next h
    rw [hlc, hpc, ← hctl, ← hctl]
    exact ⟨rfl, rfl⟩
  · exact (hframe.others c hc).trans (State.core_modMe_ne s f hc)

/-- Settles O30: both forms are one write of a word of the own window, by its address. -/
theorem movtsCompletes : Obligations.MovtsCompletes := by
  unfold Obligations.MovtsCompletes
  intro s i width group sn rd hc hform k y
  have hexec : exec i s = moveToCtl width s group sn rd := by
    rcases hform with ⟨rfl, rfl⟩ | ⟨rl, sl, rfl, rfl, rfl, rfl, rfl⟩
    · exact exec_movts32 rd sn group s
    · exact exec_movts16 rl sl s
  have hk : k < 512 := groupIndex_lt group sn
  have hword : ctlAddr s.cfg.window group sn = BitVec.ofNat 32 (s.cfg.window.base + 4 * k) := ctlAddr_eq _ group sn
  rw [hexec, moveToCtl, hword]
  refine ⟨fun hfree => ?write, fun hres => ?fault⟩
  case write =>
    rw [memWrite_windowWord hc hk hfree, Res.ok_bind, runInstr_ok]
    obtain ⟨hmem, hidle, hpassed, hfailed, hexit, hnotes⟩ := s.me.writeWord_rest k (s.reg rd)
    obtain ⟨hwords, hloop, hline, hmem', hext, hothers⟩ :=
      complete_of_wrote s width (f := fun x => x.writeWord k (s.reg rd)) rfl hmem
    have hwrote : SameOutcome s (s.modMe fun x => x.writeWord k (s.reg rd)) := by
      constructor <;> rw [State.me_modMe] <;> assumption
    have hout := hwrote.trans (outcome_complete width s.pc Signal.next_ne_idle _)
    refine ⟨_, rfl, hwords, hloop, hline, hmem', hext, hothers, hout, ?_⟩
    rw [notes_complete, State.me_modMe, hnotes]
  case fault =>
    rw [memWrite_windowWord_reserved hc hk hres, Res.memoryFault_bind, runInstr_memoryFault]
    exact ⟨_, rfl, halted_halt s _⟩

/-! ## Transfers that stop (R227, R332) -/

theorem aligned_of_sizeBytes {ea : Word} {size : Size} (ha : ea.toNat % sizeBytes size = 0) (hz : size ≠ .double) :
    aligned ea (accessBytes (sizeAccess size)) = true := by
  rw [accessBytes_sizeAccess hz]
  exact (aligned_iff ea _).mpr ha

theorem aligned_of_double {ea : Word} {size : Size} (ha : ea.toNat % sizeBytes size = 0) (hz : size = .double) :
    aligned ea 8 = true ∧ aligned ea 4 = true ∧ aligned (ea + 4) 4 = true := by
  subst hz
  have ha : ea.toNat % 8 = 0 := ha
  refine ⟨(aligned_iff ea 8).mpr ha, (aligned_iff ea 4).mpr (by omega), (aligned_iff _ 4).mpr ?_⟩
  rw [toNat_add_four ha]
  omega

section
variable {s : State} {ea : Word} {size : Size} (ha : ea.toNat % sizeBytes size = 0)
  (ht : translate s.cfg s.self ea = .invalid)
include ha ht

theorem loadN_invalid (rd : RegIdx) : loadN s ea size rd = .memoryFault ea false s := by
  by_cases hz : size = .double
  · obtain ⟨h8, h4, -⟩ := aligned_of_double ha hz
    rw [loadN, if_pos hz, if_pos h8, memRead_invalid s h4 ht, Res.memoryFault_bind]
  · rw [loadN, if_neg hz, memRead_invalid s (aligned_of_sizeBytes ha hz) ht, Res.memoryFault_bind]

theorem storeN_invalid (d0 d1 : Word) : storeN s ea size d0 d1 = .memoryFault ea true s := by
  by_cases hz : size = .double
  · obtain ⟨h8, h4, -⟩ := aligned_of_double ha hz
    rw [storeN, if_pos hz, if_pos h8, memWrite_invalid s _ h4 ht, Res.memoryFault_bind]
  · rw [storeN, if_neg hz, memWrite_invalid s _ (aligned_of_sizeBytes ha hz) ht]

end

/-- Settles O36: the first access of each form faults before any effect. -/
theorem invalidAddressHalts : Obligations.InvalidAddressHalts := by
  unfold Obligations.InvalidAddressHalts
  refine fun s i x ha ht => ⟨fun hload hb => ?_, fun hstore => ?_⟩
  · rw [exec_of_loadForm hload hb, Transfer.load, loadN_invalid ha ht, Res.memoryFault_bind, runInstr_memoryFault]
    exact ⟨_, rfl, halted_halt s _⟩
  · rw [exec_of_storeForm hstore, Transfer.store, storeN_invalid ha ht, Res.memoryFault_bind, runInstr_memoryFault]
    exact ⟨_, rfl, halted_halt s _⟩

theorem loadPost_refused (width : Nat) (s : State) {rd rn : RegIdx} {v : Word} {size : Size}
    (hb : baseLoaded ⟨width, rd, size, s.reg rn, some (rn, v)⟩) :
    loadPost width s rd rn v size = .refused .postmodifyLoadIntoBase :=
  if_pos ((loadsBase_iff rd rn size width (s.reg rn) v).mpr hb)

theorem not_baseLoaded_of_none {x : Transfer} (h : x.base = none) : ¬ baseLoaded x := by
  rintro ⟨rn, v, hb, -⟩
  rw [h] at hb
  cases hb

theorem exec_of_baseLoaded {s : State} {i : Instr} {x : Transfer} (h : loadForm s i = some x) (hb : baseLoaded x) :
    exec i s = .refused .postmodifyLoadIntoBase := by
  cases i with
  | ldrPost16 => cases h; exact loadPost_refused 2 s hb
  | ldrPost32 => cases h; exact loadPost_refused 4 s hb
  | ldrDispPost => cases h; exact loadPost_refused 4 s hb
  | ldrIndex16 | ldrIndex32 | ldrDisp16 | ldrDisp32 => cases h; exact absurd hb (not_baseLoaded_of_none rfl)
  | _ => cases h

theorem not_double_of_narrow {size : Size} (h : size = .byte ∨ size = .half) : size ≠ .double ∧ sizeAccess size ≠ .b4 := by
  rcases h with rfl | rfl <;> decide

/-- Settles O37. -/
theorem refusedTransfers : Obligations.RefusedTransfers := by
  unfold Obligations.RefusedTransfers
  refine ⟨fun s i x => exec_of_baseLoaded, fun s i x c off hstore hsize ha ht hw hk => ?_⟩
  obtain ⟨hz, hnarrow⟩ := not_double_of_narrow hsize
  have hrefused := memWrite_core_refused s (v := s.reg x.rd) (aligned_of_sizeBytes ha hz) ht
    (ECore.store_sideEffect _ _ hw hnarrow ((sideEffectWord_iff _).mpr hk))
  rw [exec_of_storeForm hstore, Transfer.store, storeN, if_neg hz, hrefused, Res.refused_bind, runInstr_refused]

/-! ## The stores' addresses (R226, R227) -/

theorem addressed_of_storeForm {s : State} {i : Instr} {x : Transfer} (h : storeForm s i = some x) :
    Addressed s i x := by
  cases i with
  | strIndex16 rd rn rm size => cases h; exact ⟨_, _, _, _, rfl, indexAddr_eq_offsetBy s _ _ false, rfl⟩
  | strIndex32 rd rn rm size sub => cases h; exact ⟨_, _, _, _, rfl, indexAddr_eq_offsetBy s rn rm sub, rfl⟩
  | strDisp16 rd rn imm size =>
    cases h
    exact ⟨_, _, _, _, rfl, dispAddr_eq_offsetBy (n := 3) (by decide) s _ imm size false, rfl⟩
  | strDisp32 rd rn imm size sub =>
    cases h
    exact ⟨_, _, _, _, rfl, dispAddr_eq_offsetBy (n := 11) (by decide) s rn imm size sub, rfl⟩
  | strPost16 rd rn rm size =>
    cases h
    exact ⟨_, _, _, _, rfl, rfl, congrArg (fun v => some (lowReg rn, v)) (indexAddr_eq_offsetBy s _ _ false)⟩
  | strPost32 rd rn rm size sub =>
    cases h
    exact ⟨_, _, _, _, rfl, rfl, congrArg (fun v => some (rn, v)) (indexAddr_eq_offsetBy s rn rm sub)⟩
  | strDispPost rd rn imm size sub =>
    cases h
    exact ⟨_, _, _, _, rfl, rfl,
      congrArg (fun v => some (rn, v)) (dispAddr_eq_offsetBy (n := 11) (by decide) s rn imm size sub)⟩
  | _ => cases h

/-! ## Stores into plain memory (R228 to R231) -/

theorem Target.plus_inj {g : Target} (hg : g ≠ .invalid) {m n : Nat} (h : g.plus m = g.plus n) : m = n := by
  cases g with
  | invalid => exact absurd rfl hg
  | external off => exact Nat.add_left_cancel (Target.external.inj h)
  | core c off => exact Nat.add_left_cancel (Target.core.inj h).2

theorem inWindow_add_sizeBytes {w : RegWindow} (hk : windowOk w = true) {off j : Nat} (size : Size)
    (ha : off % sizeBytes size = 0) (hj : j < sizeBytes size) : inWindow w (off + j) = inWindow w off := by
  obtain ⟨hbase, hsize, -⟩ := (windowOk_iff w).mp hk
  rw [Bool.eq_iff_iff, inWindow_iff, inWindow_iff]
  cases size <;> simp only [sizeBytes] at ha hj <;> omega

/-- An aligned transfer from plain memory stays in it. -/
theorem plain_plus {cfg : Config} (hc : configOk cfg = true) {self : CoreId} {a : Word} {size : Size} {g : Target}
    (ha : a.toNat % sizeBytes size = 0) (ht : translate cfg self a = g) (hg : g.plain cfg.window = true) {j : Nat}
    (hj : j < sizeBytes size) : (g.plus j).plain cfg.window = true := by
  cases g with
  | invalid => cases hg
  | external off => rfl
  | core c off =>
    have hdvd : sizeBytes size ∣ 2 ^ 20 := by cases size <;> decide
    have hoff := (aligned_core ht hdvd ((aligned_iff a _).mpr ha)).1
    rw [Target.plus, Target.plain, inWindow_add_sizeBytes (configOk_window hc) size hoff hj]
    exact hg

theorem ownWindow_of_plain {g : Target} {w : RegWindow} (h : g.plain w = true) (self : CoreId) :
    ownWindow w self g = false := by
  cases g with
  | external off => rfl
  | invalid => rfl
  | core c off => rw [Target.plain, Bool.not_eq_true'] at h; rw [ownWindow, h, Bool.and_false]

section
variable {s : State} {x : Transfer} {g : Target} (hc : configOk s.cfg = true) (ha : x.ea.toNat % sizeBytes x.size = 0)
  (ht : translate s.cfg s.self x.ea = g) (hg : g.plain s.cfg.window = true)
include hc ha ht hg

theorem storeN_plain : ∃ u, storeN s x.ea x.size (s.reg x.rd) (storeHigh s x.rd x.size) = .ok u ∧
    (∀ j, j < sizeBytes x.size → u.byteOf (g.plus j) = storedByte s x j) ∧ Written s u (inRun g (sizeBytes x.size)) := by
  by_cases hz : x.size = .double
  case neg =>
    have hsize := accessBytes_sizeAccess hz
    obtain ⟨u, hu, hrun, hwritten⟩ := memWrite_plain hc (s.reg x.rd) (aligned_of_sizeBytes ha hz) ht hg
    rw [hsize] at hrun hwritten
    refine ⟨u, by rw [storeN, if_neg hz, hu], fun j hj => ?_, hwritten⟩
    have hj4 : j < 4 := Nat.lt_of_lt_of_le hj (by rw [← hsize]; cases sizeAccess x.size <;> decide)
    rw [hrun j hj, storedByte, if_pos hj4]
  case pos =>
    obtain ⟨h8, h4, h4'⟩ := aligned_of_double ha hz
    have hbytes : sizeBytes x.size = 8 := by rw [hz]; rfl
    have hne := Target.ne_invalid_of_plain hg
    have hg4 : (g.plus 4).plain s.cfg.window = true := plain_plus hc ha ht hg (by rw [hbytes]; decide)
    have ht4 : translate s.cfg s.self (x.ea + 4) = g.plus 4 := by
      rw [translate_add_four hc s.self (by rw [hbytes] at ha; exact ha), ht]
    obtain ⟨u, hu, hlow, hwritten⟩ := memWrite_plain (size := .b4) hc (s.reg x.rd) h4 ht hg
    obtain ⟨t, htw, hhigh, hwritten'⟩ := memWrite_plain (size := .b4) (s := u) (hwritten.cfg ▸ hc)
      (s.reg (pairReg x.rd)) h4' (hwritten.cfg ▸ ht4) (hwritten.cfg ▸ hg4)
    refine ⟨t, ?_, fun j hj => ?_, ?_⟩
    · rw [storeN, if_pos hz, if_pos h8, hu, Res.ok_bind, storeHigh, if_pos hz, htw]
    · rw [hbytes] at hj
      by_cases hj4 : j < 4
      · have hout : ¬ inRun (g.plus 4) (accessBytes .b4) (g.plus j) := by
          rintro ⟨k, -, hk⟩
          rw [Target.plus_plus] at hk
          have := Target.plus_inj hne hk
          omega
        rw [hwritten'.bytes _ hout, hlow j hj4, storedByte, if_pos hj4]
      · have hk := hhigh (j - 4) (by rw [accessBytes]; omega)
        rw [Target.plus_plus, Nat.add_sub_cancel' (by omega)] at hk
        rw [hk, storedByte, if_neg hj4]
    · rw [hbytes]
      have hfirst : Written s u (inRun g 8) := hwritten.mono fun b ⟨j, hj, hb⟩ => ⟨j, Nat.lt_trans hj (by decide), hb⟩
      have hsecond : Written u t (inRun g 8) := hwritten'.mono fun b ⟨j, hj, hb⟩ =>
        ⟨4 + j, Nat.add_lt_add_left hj 4, by rw [hb, Target.plus_plus]⟩
      exact hfirst.trans hsecond

end

/-- Settles O33: each form is one store and the base's update, run to the end of its instruction. -/
theorem storesComplete : Obligations.StoresComplete := by
  unfold Obligations.StoresComplete
  intro s i x g hc hx ha ht hg
  obtain ⟨u, hstore, hrun, hwritten⟩ := storeN_plain hc ha ht hg
  have hstored := hwritten.stored
  have hpc : u.pc = s.pc := hstored.ctl .pc
  have hbase := (x.registers_setBase u).completed x.width
  rw [hpc] at hbase
  refine ⟨addressed_of_storeForm hx, complete x.width s.pc .next (x.setBase u), ?run, fun j hj => ?bytes,
    fun rn v hb => ?base, hstored.completedStore hbase⟩
  case run => rw [exec_of_storeForm hx, Transfer.store, hstore, Res.ok_bind, runInstr_ok]
  case bytes =>
    rw [← hrun j hj]
    refine hbase.frame.bytes _ (ownWindow_of_plain ?_ _)
    rw [hwritten.cfg]
    exact plain_plus hc ha ht hg hj
  case base => exact (reg_complete _ _ _ _ rn).trans (x.baseUpdated_setBase u rn v hb)

/-! ## Stores into a register window (R221, R234) -/

/-- A write into a register window succeeds, unless it is narrow and on a side-effect register; it leaves all memory
outside the windows alone. -/
theorem memWrite_window {s : State} {c d : CoreId} {a : Word} {off : Nat} {size : Access} (v : Word)
    (ha : aligned a (accessBytes size) = true) (ht : translate s.cfg c a = .core d off)
    (hw : inWindow s.cfg.window off = true)
    (hplain : size ≠ .b4 → sideEffectWord (windowIndex s.cfg.window off) = false) :
    ∃ t, memWrite s c a size v = .ok t ∧ SameMemory s t := by
  by_cases hsize : size = .b4
  case pos =>
    subst hsize
    exact ⟨_, memWrite_core s ha ht (ECore.store_word _ v hw),
      sameMemory_setCore s d (ECore.writeWord_rest _ _ v).1⟩
  case neg =>
    exact ⟨_, memWrite_core s ha ht (ECore.store_narrow _ v hw hsize (hplain hsize)), sameMemory_setCore s d rfl⟩

/-- What the writes of a store into a window leave. -/
structure WindowWritten (s m : State) (x : Transfer) : Prop where
  writes : if x.size = .double then ∃ u, memWrite s s.self x.ea .b4 (s.reg x.rd) = .ok u ∧
      memWrite u s.self (x.ea + 4) .b4 (s.reg (pairReg x.rd)) = .ok m
    else memWrite s s.self x.ea (sizeAccess x.size) (s.reg x.rd) = .ok m
  store : storeN s x.ea x.size (s.reg x.rd) (storeHigh s x.rd x.size) = .ok m
  same : SameMemory s m
  steady : Steady s m

section
variable {s : State} {x : Transfer} {c : CoreId} {off : Nat} (hc : configOk s.cfg = true)
  (ha : x.ea.toNat % sizeBytes x.size = 0) (ht : translate s.cfg s.self x.ea = .core c off)
  (hw : inWindow s.cfg.window off = true)
include hc ha ht hw

theorem windowWritten_double (hz : x.size = .double) : ∃ m, WindowWritten s m x := by
  obtain ⟨h8, h4, h4'⟩ := aligned_of_double ha hz
  have hbytes : sizeBytes x.size = 8 := by rw [hz]; rfl
  obtain ⟨u, hu, hsame⟩ := memWrite_window (s.reg x.rd) (size := .b4) h4 ht hw (absurd rfl)
  have hst := steady_memWrite (reachable_self s) hu
  have ht4 : translate u.cfg s.self (x.ea + 4) = .core c (off + 4) := by
    rw [hst.cfg, translate_add_four hc s.self (by rw [hbytes] at ha; exact ha), ht]
    rfl
  have hw4 : inWindow u.cfg.window (off + 4) = true := by
    have hoff := (aligned_core ht (by decide) h8).1
    rw [hst.cfg, inWindow_add_sizeBytes (configOk_window hc) .double hoff (by decide), hw]
  obtain ⟨m, hm, hsame'⟩ := memWrite_window (s.reg (pairReg x.rd)) (size := .b4) h4' ht4 hw4 (absurd rfl)
  refine ⟨m, ?_, ?_, hsame.trans hsame', hst.trans (steady_memWrite ((reachable_self s).of_steady hst) hm)⟩
  · rw [if_pos hz]
    exact ⟨u, hu, hm⟩
  · rw [storeN, if_pos hz, if_pos h8, hu, Res.ok_bind, storeHigh, if_pos hz, hm]

theorem windowWritten_of_store (hk : x.size = .byte ∨ x.size = .half → windowIndex s.cfg.window off ∉
      [Ctl.index .status, Ctl.index .fstatus, Ctl.index .ilatSt, Ctl.index .ilatCl, Ctl.index .debugCmd,
        Ctl.index .resetCore]) : ∃ m, WindowWritten s m x := by
  by_cases hz : x.size = .double
  case pos => exact windowWritten_double hc ha ht hw hz
  case neg =>
    have hplain : sizeAccess x.size ≠ .b4 → sideEffectWord (windowIndex s.cfg.window off) = false := by
      intro hsize
      rw [← Bool.not_eq_true, sideEffectWord_iff]
      refine hk ?_
      cases hx : x.size with
      | byte => exact .inl rfl
      | half => exact .inr rfl
      | word => rw [hx] at hsize; exact absurd rfl hsize
      | double => exact absurd hx hz
    obtain ⟨m, hm, hsame⟩ := memWrite_window (s.reg x.rd) (aligned_of_sizeBytes ha hz) ht hw hplain
    exact ⟨m, by rwa [if_neg hz], by rw [storeN, if_neg hz, hm], hsame, steady_memWrite (reachable_self s) hm⟩

end

theorem steady_setBase (x : Transfer) (s : State) : Steady s (x.setBase s) := by
  cases h : x.base with
  | none => rw [x.setBase_of_none s h]; exact Steady.refl s
  | some p => rw [x.setBase_of_some s h]; exact steady_setReg s p.1 p.2

theorem ctl_setBase (x : Transfer) (s : State) (r : Ctl) : (x.setBase s).ctl r = s.ctl r := by
  cases h : x.base with
  | none => rw [x.setBase_of_none s h]
  | some p => rw [x.setBase_of_some s h, State.ctl_setReg]

/-- Settles O34: after the writes come the base's update and the end of the instruction. -/
theorem storesIntoWindows : Obligations.StoresIntoWindows := by
  unfold Obligations.StoresIntoWindows
  intro s i x c off hc hx ha ht hw hk
  obtain ⟨m, hwrites, hstore, hsame, hst⟩ := windowWritten_of_store hc ha ht hw hk
  have hframe := (x.registers_setBase m).frame.trans (frame_complete x.width s.pc .next (x.setBase m))
  have hsame' := (hsame.trans (sameMemory_setBase m x)).trans (sameMemory_complete_next (x.setBase m) x.width s.pc)
  have hst' := (hst.trans (steady_setBase x m)).trans (steady_complete x.width s.pc Signal.next_ne_idle)
  refine ⟨m, hwrites, complete x.width s.pc .next (x.setBase m), ?run, fun d k hdk => ?words, fun rn v hb => ?base,
    fun d => ⟨hsame'.mem d, (hst'.alike d).idle⟩, hsame'.ext, fun h => ?loop, fun h => ?line⟩
  case run => rw [exec_of_storeForm hx, Transfer.store, hstore, Res.ok_bind, runInstr_ok]
  case words =>
    by_cases hd : d = s.self
    · subst hd
      have hk : k ∉ baseWords x ++ [Ctl.index .pc, Ctl.index .lc] := by
        have hk := hdk.resolve_left (absurd rfl)
        simp only [List.mem_append, List.mem_cons, List.not_mem_nil, or_false, not_or] at hk ⊢
        tauto
      have hword := hframe.words k hk
      rwa [State.me, State.me, hframe.self, hst.self] at hword
    · rw [hframe.others d (by rw [hst.self]; exact hd)]
  case base => exact (reg_complete _ _ _ _ rn).trans (x.baseUpdated_setBase m rn v hb)
  case loop =>
    rw [← ctl_setBase x m, ← ctl_setBase x m] at h ⊢
    exact complete_of_loop x.width .next h
  case line =>
    rw [← ctl_setBase x m, ← ctl_setBase x m] at h
    obtain ⟨hlc, hpc⟩ := complete_of_not_loop x.width .next h
    rw [hlc, hpc, ctl_setBase x m, State.pc, ctl_setBase x m]
    exact ⟨rfl, rfl⟩

end Sys2Proof.Machine
end

section
/-! SUB compares its operands (R250); SYNC, MBKPT and WAND act on every core of the grid (R305, R308, R309). -/

namespace Sys2Proof.Machine

/-! ## The orders of two words (R250, last column) -/

theorem getLsbD_31 (x : Word) : x.getLsbD 31 = decide (2 ^ 31 ≤ x.toNat) := by
  have h := BitVec.msb_eq_decide x
  rwa [BitVec.msb_eq_getLsbD_last] at h

theorem toInt_eq (x : Word) : x.toInt = if 2 ^ 31 ≤ x.toNat then (x.toNat : Int) - 2 ^ 32 else (x.toNat : Int) := by
  have := x.isLt
  rw [BitVec.toInt_eq_toNat_cond]
  split <;> split <;> omega

/-- The overflow and the sign of a difference differ exactly where the minuend is the smaller signed number. -/
theorem subOverflow_ne_sign (a b : Word) : ((a.getLsbD 31 != b.getLsbD 31 && (a - b).getLsbD 31 != a.getLsbD 31) !=
    (a - b).getLsbD 31) = decide (a.toInt < b.toInt) := by
  have ha := a.isLt
  have hb := b.isLt
  have hsub := BitVec.toNat_sub a b
  rw [getLsbD_31, getLsbD_31, getLsbD_31, toInt_eq, toInt_eq]
  -- The three sign bits are cases; in each the differences of the numbers themselves decide.
  by_cases ha31 : 2 ^ 31 ≤ a.toNat <;> by_cases hb31 : 2 ^ 31 ≤ b.toNat <;>
    by_cases hr31 : 2 ^ 31 ≤ (a - b).toNat <;>
    simp only [ha31, hb31, hr31, decide_true, decide_false, if_true, if_false, bne_self_eq_false, Bool.bne_true,
      Bool.bne_false, Bool.not_false, Bool.and_true, Bool.and_false, eq_comm (a := true), eq_comm (a := false),
      decide_eq_true_eq, decide_eq_false_iff_not] <;> omega

theorem ofInt_sub (a b : Word) : BitVec.ofInt 32 ((a.toNat : Int) - b.toNat) = a - b :=
  (aluResult_sub ruleAlu a b).symm

/-- The flags of a subtraction, as orders of its operands. -/
theorem orders_of_subFlags {s t : State} {a b : Word} {avs : Bool}
    (h : IntFlagsWritten s t (a - b) (decide (b.toNat ≤ a.toNat))
      (a.getLsbD 31 != b.getLsbD 31 && (a - b).getLsbD 31 != a.getLsbD 31) avs) :
    (t.flag bitAZ = true ↔ a = b) ∧ (t.flag bitAC = true ↔ b.toNat ≤ a.toNat) ∧
      ((t.flag bitAV != t.flag bitAN) = true ↔ a.toInt < b.toInt) := by
  rw [h.az, h.ac, h.av, h.an, subOverflow_ne_sign, decide_eq_true_eq, decide_eq_true_eq, decide_eq_true_eq]
  exact ⟨sub_eq_zero, Iff.rfl, Iff.rfl⟩

theorem subDone_of_form {s : State} {i : Instr} {a b : Word} (halu : s.cfg.alu = ruleAlu)
    (h : (∃ rd rn rm : RegLow, i = .sub16 rd rn rm ∧ a = s.reg (lowReg rn) ∧ b = s.reg (lowReg rm)) ∨
      (∃ rd rn rm : RegIdx, i = .sub32 rd rn rm ∧ a = s.reg rn ∧ b = s.reg rm) ∨
      (∃ (rd rn : RegLow) (imm : BitVec 3), i = .subImm16 rd rn imm ∧ a = s.reg (lowReg rn) ∧
        b = BitVec.ofInt 32 imm.toInt) ∨
      (∃ (rd rn : RegIdx) (imm : BitVec 11), i = .subImm32 rd rn imm ∧ a = s.reg rn ∧ b = BitVec.ofInt 32 imm.toInt)) :
    ∃ width rd, SubDone s (exec i s) width rd a b := by
  obtain ⟨hreg16, hreg32, himm16, himm32⟩ := subCompletes s halu
  obtain ⟨rd, rn, rm, rfl, rfl, rfl⟩ | ⟨rd, rn, rm, rfl, rfl, rfl⟩ | ⟨rd, rn, imm, rfl, rfl, rfl⟩ |
    ⟨rd, rn, imm, rfl, rfl, rfl⟩ := h
  · exact ⟨_, _, hreg16 rd rn rm⟩
  · exact ⟨_, _, hreg32 rd rn rm⟩
  · exact ⟨_, _, himm16 rd rn imm⟩
  · exact ⟨_, _, himm32 rd rn imm⟩

/-- Settles O28: the conditions are read off the three orders that the flags hold. -/
theorem conditionsCompareAfterSub : Obligations.ConditionsCompareAfterSub := by
  unfold Obligations.ConditionsCompareAfterSub
  intro s i a b halu hconds hform
  obtain ⟨width, rd, t, ht, -, hflags, hdone⟩ := subDone_of_form halu hform
  rw [ofInt_sub] at hflags
  obtain ⟨hz, hc, hlt⟩ := orders_of_subFlags hflags
  have hcfg : t.cfg = s.cfg := hdone.frame.cfg
  obtain ⟨heq, hne, hgtu, hgteu, hlteu, hltu, hgt, hgte, hlt', hlte, -⟩ :=
    conditionTable t (hcfg ▸ halu) (hcfg ▸ hconds)
  have heqi : a = b ↔ a.toInt = b.toInt := BitVec.toInt_inj.symm
  have heqn : a = b ↔ a.toNat = b.toNat := BitVec.toNat_inj.symm
  have hzf : t.flag bitAZ = false ↔ a ≠ b := by rw [← Bool.not_eq_true, hz]
  have hge : (t.flag bitAV == t.flag bitAN) = true ↔ b.toInt ≤ a.toInt := by
    rw [← Int.not_lt, ← hlt, Bool.not_eq_true, bne, Bool.not_eq_false']
  have hcf : t.flag bitAC = false ↔ a.toNat < b.toNat := by rw [← Bool.not_eq_true, hc, Nat.not_le]
  refine ⟨t, ht, ?_⟩
  dsimp only at *
  refine ⟨by rw [heq, hz], by rw [hne, Bool.not_eq_true', hzf], ?gtu, by rw [hgteu, hc], ?lteu,
    by rw [hltu, Bool.not_eq_true', hcf], ?gt, by rw [hgte, hge], by rw [hlt', hlt], ?lte⟩
  case gtu =>
    rw [hgtu, Bool.and_eq_true, Bool.not_eq_true', hzf, hc, ne_eq, heqn]
    omega
  case lteu =>
    rw [hlteu, Bool.or_eq_true, Bool.not_eq_true', hz, hcf, heqn]
    omega
  case gt =>
    rw [hgt, Bool.and_eq_true, Bool.not_eq_true', hzf, hge, ne_eq, heqi]
    omega
  case lte =>
    rw [hlte, Bool.or_eq_true, hz, hlt, heqi]
    omega

/-! ## Signals to many cores (R109) -/

theorem mem_gridCores {cfg : Config} {c : CoreId} : c ∈ gridCores cfg ↔ inGrid cfg c = true := by
  refine ⟨inGrid_of_mem_gridCores, fun h => ?_⟩
  simp only [inGrid, Bool.and_eq_true, decide_eq_true_eq] at h
  obtain ⟨hrow, hcol⟩ := h
  simp only [gridCores, List.mem_flatMap, List.mem_map, List.mem_range]
  exact ⟨c.row.toNat, hrow, c.col.toNat, hcol, by rw [BitVec.ofNat_toNat, BitVec.ofNat_toNat]; rfl⟩

/-- Two cores that differ at most in the control registers `rs`. -/
structure ECore.Differ (rs : List Ctl) (x y : ECore) : Prop where
  words : ∀ k, (∀ r ∈ rs, k ≠ r.index) → y.word k = x.word k
  mem : y.mem = x.mem
  alike : x.Alike y
  notes : y.notes = x.notes

theorem ECore.Differ.refl (rs : List Ctl) (x : ECore) : ECore.Differ rs x x :=
  ⟨fun _ _ => rfl, rfl, ECore.Alike.refl x, rfl⟩

theorem ECore.Differ.trans {rs : List Ctl} {x y z : ECore} (h : ECore.Differ rs x y) (g : ECore.Differ rs y z) :
    ECore.Differ rs x z :=
  ⟨fun k hk => (g.words k hk).trans (h.words k hk), g.mem.trans h.mem, h.alike.trans g.alike, g.notes.trans h.notes⟩

theorem ECore.Differ.mono {rs rs' : List Ctl} {x y : ECore} (h : ECore.Differ rs x y) (hs : rs ⊆ rs') :
    ECore.Differ rs' x y :=
  ⟨fun k hk => h.words k fun r hr => hk r (hs hr), h.mem, h.alike, h.notes⟩

theorem ECore.differ_setCtl (x : ECore) (r : Ctl) (v : Word) : ECore.Differ [r] x (x.setCtl r v) :=
  ⟨fun k hk => by rw [ECore.word_setCtl, if_neg (hk r List.mem_cons_self)], rfl, ⟨rfl, rfl, rfl, rfl⟩, rfl⟩

/-- Bit `i` of register `r` is set, and nothing else of the core is changed. -/
structure ECore.SetsBit (r : Ctl) (i : Nat) (x y : ECore) : Prop where
  bits : ∀ b, (y.ctl r).getLsbD b = (b == i || (x.ctl r).getLsbD b)
  rest : ECore.Differ [r] x y

theorem ECore.SetsBit.trans {r : Ctl} {i : Nat} {x y z : ECore} (h : ECore.SetsBit r i x y)
    (g : ECore.SetsBit r i y z) : ECore.SetsBit r i x z :=
  ⟨fun b => by rw [g.bits, h.bits, ← Bool.or_assoc, Bool.or_self], h.rest.trans g.rest⟩

theorem ECore.setsBit_setCtl (x : ECore) (r : Ctl) {i : Nat} (hi : i < 32) :
    ECore.SetsBit r i x (x.setCtl r (setBit (x.ctl r) i true)) := by
  refine ⟨fun b => ?_, x.differ_setCtl r _⟩
  rw [ECore.ctl_setCtl_same, getLsbD_setBit _ _ _ _ hi]
  by_cases hb : b = i
  · rw [if_pos hb, hb, BEq.rfl, Bool.true_or]
  · rw [if_neg hb, beq_eq_false_iff_ne.mpr hb, Bool.false_or]

/-- A change of the cores' registers and nothing else of the machine. -/
structure CoresChanged (s t : State) : Prop where
  ext : t.ext = s.ext
  cfg : t.cfg = s.cfg
  halting : t.halting = s.halting
  self : t.self = s.self
  agenda : t.agenda = s.agenda

theorem CoresChanged.refl (s : State) : CoresChanged s s := ⟨rfl, rfl, rfl, rfl, rfl⟩

theorem CoresChanged.trans {s t u : State} (h : CoresChanged s t) (g : CoresChanged t u) : CoresChanged s u :=
  ⟨g.ext.trans h.ext, g.cfg.trans h.cfg, g.halting.trans h.halting, g.self.trans h.self, g.agenda.trans h.agenda⟩

theorem coresChanged_setCore (s : State) (c : CoreId) (x : ECore) : CoresChanged s (s.setCore c x) :=
  ⟨rfl, rfl, rfl, rfl, rfl⟩

/-- Bit `i` of register `r` is set on the cores `on`, and nothing else is changed anywhere. -/
structure SetsBitOn (r : Ctl) (i : Nat) (on : CoreId → Prop) (s t : State) : Prop where
  sets : ∀ c, on c → ECore.SetsBit r i (s.core c) (t.core c)
  others : ∀ c, ¬ on c → t.core c = s.core c
  rest : CoresChanged s t

theorem setsBitOn_setCore (s : State) (c : CoreId) {r : Ctl} {i : Nat} {x : ECore}
    (h : ECore.SetsBit r i (s.core c) x) : SetsBitOn r i (· = c) s (s.setCore c x) where
  sets d hd := by rw [hd, State.core_setCore_same]; exact h
  others d hd := State.core_setCore_ne s x hd
  rest := coresChanged_setCore s c x

/-- A loop over cores sets the bit on every one of them, however often it comes to it. -/
theorem setsBitOn_forCores {f : State → CoreId → State} {r : Ctl} {i : Nat} {s : State}
    (hf : ∀ u c, u.cfg = s.cfg → SetsBitOn r i (· = c) u (f u c)) (cs : List CoreId) :
    SetsBitOn r i (· ∈ cs) s (forCores f cs s) := by
  induction cs generalizing s with
  | nil => exact ⟨fun c hc => (List.not_mem_nil hc).elim, fun _ _ => rfl, CoresChanged.refl s⟩
  | cons d cs ih =>
    have hd := hf s d rfl
    have hcs := ih (s := f s d) fun u c hu => hf u c (hu.trans hd.rest.cfg)
    refine ⟨fun c hc => ?_, fun c hc => ?_, hd.rest.trans hcs.rest⟩
    · by_cases hcd : c = d <;> by_cases hmem : c ∈ cs
      · exact (hd.sets c hcd).trans (hcs.sets c hmem)
      · exact (congrArg (ECore.SetsBit r i (s.core c)) (hcs.others c hmem)).mpr (hd.sets c hcd)
      · exact (congrArg (fun x => ECore.SetsBit r i x _) (hd.others c hcd)).mp (hcs.sets c hmem)
      · exact absurd (List.mem_cons.mp hc) (not_or.mpr ⟨hcd, hmem⟩)
    · obtain ⟨hcd, hmem⟩ := not_or.mp (mt List.mem_cons.mpr hc)
      exact (hcs.others c hmem).trans (hd.others c hcd)

/-- Latching an interrupt without a cause sets its bit of ILAT. -/
theorem setsBitOn_trigger (s : State) (c : CoreId) (irq : Fin 9) :
    SetsBitOn .ilat irq (· = c) s (trigger s c irq none) :=
  setsBitOn_setCore s c (ECore.setsBit_setCtl _ .ilat (by omega))

theorem setsBitOn_setDebugHalt (s : State) (c : CoreId) : SetsBitOn .debugStatus bitHalt (· = c) s (setDebugHalt s c) :=
  setsBitOn_setCore s c (ECore.setsBit_setCtl _ .debugStatus (by decide))

/-! ### The end of an instruction that signals -/

/-- Every core differs at most in the registers `rs`, and nothing else of the machine is changed. -/
structure Signalled (rs : List Ctl) (s t : State) : Prop where
  cores : ∀ c, ECore.Differ rs (s.core c) (t.core c)
  rest : CoresChanged s t

theorem Signalled.trans {rs : List Ctl} {s t u : State} (h : Signalled rs s t) (g : Signalled rs t u) :
    Signalled rs s u := ⟨fun c => (h.cores c).trans (g.cores c), h.rest.trans g.rest⟩

theorem Signalled.mono {rs rs' : List Ctl} {s t : State} (h : Signalled rs s t) (hs : rs ⊆ rs') : Signalled rs' s t :=
  ⟨fun c => (h.cores c).mono hs, h.rest⟩

theorem SetsBitOn.signalled {r : Ctl} {i : Nat} {on : CoreId → Prop} {s t : State} (h : SetsBitOn r i on s t) :
    Signalled [r] s t := by
  refine ⟨fun c => ?_, h.rest⟩
  by_cases hc : on c
  · exact (h.sets c hc).rest
  · rw [h.others c hc]
    exact ECore.Differ.refl _ _

theorem signalled_setFlag (s : State) (b : Nat) (v : Bool) : Signalled [.status] s (s.setFlag b v) := by
  refine ⟨fun c => ?_, coresChanged_setCore s s.self _⟩
  by_cases hc : c = s.self
  · subst hc
    have hcore : (s.setFlag b v).core s.self = s.me.setCtl .status (setBit (s.ctl .status) b v) :=
      State.core_setCore_same s s.self _
    rw [hcore]
    exact ECore.differ_setCtl _ _ _
  · have hcore : (s.setFlag b v).core c = s.core c := State.core_setCore_ne s _ hc
    rw [hcore]
    exact ECore.Differ.refl _ _

theorem Signalled.ctl {rs : List Ctl} {s t : State} (h : Signalled rs s t) {r : Ctl} (hr : r ∉ rs) (c : CoreId) :
    (t.core c).ctl r = (s.core c).ctl r :=
  (h.cores c).words r.index fun _ hq heq => hr (Ctl.index_inj heq ▸ hq)

theorem Signalled.me_ctl {rs : List Ctl} {s t : State} (h : Signalled rs s t) {r : Ctl} (hr : r ∉ rs) :
    t.ctl r = s.ctl r := by
  rw [State.ctl, State.ctl, State.me, State.me, h.rest.self]
  exact h.ctl hr s.self

/-- A register other than PC and LC of any core is kept by the end of an instruction. -/
theorem core_ctl_complete (width : Nat) (a : Word) (sig : Signal) (u : State) {r : Ctl} (hp : r ≠ .pc) (hl : r ≠ .lc)
    (c : CoreId) : ((complete width a sig u).core c).ctl r = (u.core c).ctl r := by
  have hframe := frame_complete width a sig u
  by_cases hc : c = u.self
  · subst hc
    have hctl := ctl_complete width a sig u hp hl
    rwa [State.ctl, State.ctl, State.me, State.me, hframe.self] at hctl
  · rw [hframe.others c hc]

/-- An instruction that keeps the loop registers and PC advances as its signal says. -/
theorem advanced_of_loop_kept {s u : State} (h : ∀ r ∈ [Ctl.pc, .lc, .le, .ls], u.ctl r = s.ctl r) (width : Nat) :
    Advanced s (complete width s.pc .next u) (s.pc + BitVec.ofNat 32 width) := by
  have hlc := h .lc (by decide)
  have hle := h .le (by decide)
  have hpc : u.pc = s.pc := h .pc (by decide)
  constructor
  · rintro ⟨hend, hcount⟩
    have hdone := complete_of_loop (t := u) (a := s.pc) width .next ⟨by rw [hle]; exact hend, by rw [hlc]; exact hcount⟩
    rwa [h .ls (by decide), hlc] at hdone
  · intro hend
    have hdone := complete_of_not_loop (t := u) (a := s.pc) width .next (by rw [hle, hlc]; exact hend)
    rw [hpc, hlc] at hdone
    exact ⟨hdone.2, hdone.1⟩

theorem Signalled.advanced {rs : List Ctl} {s u : State} (h : Signalled rs s u)
    (hrs : ∀ r ∈ [Ctl.pc, .lc, .le, .ls], r ∉ rs) (width : Nat) :
    Advanced s (complete width s.pc .next u) (s.pc + BitVec.ofNat 32 width) :=
  advanced_of_loop_kept (fun r hr => h.me_ctl (hrs r hr)) width

theorem Signalled.broadcast {rs : List Ctl} {s u : State} (h : Signalled rs s u)
    (hrs : ∀ r ∈ [Ctl.pc, .lc, .le, .ls], r ∉ rs) (width : Nat) :
    Broadcast s (complete width s.pc .next u) (s.pc + BitVec.ofNat 32 width) rs := by
  have hframe := frame_complete width s.pc .next u
  have hsteady := steady_complete (s := u) width s.pc Signal.next_ne_idle
  have hmem := sameMemory_complete_next u width s.pc
  have hself : u.self = s.self := h.rest.self
  refine ⟨fun c k hk hpc => ?words, fun g hg => ?bytes, fun c => ?cores, fun c hc => ?others, ?notes,
    h.advanced hrs width, hframe.cfg.trans h.rest.cfg, hframe.halting.trans h.rest.halting, hframe.self.trans hself,
    hframe.agenda.trans h.rest.agenda⟩
  case words =>
    rw [← (h.cores c).words k hk]
    by_cases hc : c = s.self
    · subst hc
      have hk : k ∉ [Ctl.index .pc, Ctl.index .lc] := by
        simpa only [List.mem_cons, List.not_mem_nil, or_false] using fun hmem => hpc ⟨rfl, hmem⟩
      have hword := hframe.words k hk
      rwa [State.me, State.me, hframe.self, hself] at hword
    · rw [hframe.others c (by rw [hself]; exact hc)]
  case bytes =>
    cases g with
    | invalid => rfl
    | external off => exact congrArg (mapGet 0 · off) (hmem.ext.trans h.rest.ext)
    | core c off =>
      have hw := hg c off rfl
      show (State.core _ c).byte (complete width s.pc .next u).cfg.window off = (s.core c).byte s.cfg.window off
      rw [hframe.cfg, h.rest.cfg, ECore.byte_mem _ hw, ECore.byte_mem _ hw, hmem.mem, (h.cores c).mem]
  case cores =>
    obtain ⟨hidle, hpassed, hfailed, hexit⟩ := (h.cores c).alike.trans (hsteady.alike c)
    exact ⟨hidle, hpassed, hfailed, hexit⟩
  case others => rw [hframe.others c (by rw [hself]; exact hc), (h.cores c).notes]
  case notes =>
    have hnotes : u.me.notes = s.me.notes := by
      rw [State.me, State.me, hself]
      exact (h.cores s.self).notes
    rw [notes_complete, hnotes]

/-- A bit set on every core of the grid, and the instruction ended. -/
theorem broadcast_of_setsBitOn {r : Ctl} {i : Nat} {s u : State} (h : SetsBitOn r i (· ∈ gridCores s.cfg) s u)
    (hr : r ∉ [Ctl.pc, .lc, .le, .ls]) :
    (∀ c, inGrid s.cfg c = true → ∀ b, (((complete 2 s.pc .next u).core c).ctl r).getLsbD b =
      (b == i || ((s.core c).ctl r).getLsbD b)) ∧
    (∀ c, inGrid s.cfg c = false → ((complete 2 s.pc .next u).core c).ctl r = (s.core c).ctl r) ∧
    Broadcast s (complete 2 s.pc .next u) (s.pc + 2) [r] := by
  have hpc : r ≠ .pc := by rintro rfl; exact hr (by decide)
  have hlc : r ≠ .lc := by rintro rfl; exact hr (by decide)
  refine ⟨fun c hc b => ?_, fun c hc => ?_, h.signalled.broadcast (fun q hq hqr => ?_) 2⟩
  · rw [core_ctl_complete _ _ _ _ hpc hlc]
    exact (h.sets c (mem_gridCores.mpr hc)).bits b
  · rw [core_ctl_complete _ _ _ _ hpc hlc, h.others c (fun hmem => ?_)]
    rw [mem_gridCores.mp hmem] at hc
    cases hc
  · rw [List.mem_singleton.mp hqr] at hq
    exact hr hq

/-- Settles O50: each is a loop that sets one bit on every core of the grid. -/
theorem crossCoreSignalsComplete : Obligations.CrossCoreSignalsComplete := by
  unfold Obligations.CrossCoreSignalsComplete
  exact fun s => ⟨⟨_, rfl, broadcast_of_setsBitOn
      (setsBitOn_forCores (fun u c _ => setsBitOn_trigger u c irqSync) (gridCores s.cfg)) (by decide)⟩,
    ⟨_, rfl, broadcast_of_setsBitOn
      (setsBitOn_forCores (fun u c _ => setsBitOn_setDebugHalt u c) (gridCores s.cfg)) (by decide)⟩⟩

/-! ## WAND (R309) -/

theorem allWand_iff (s : State) (cs : List CoreId) :
    allWand s cs = true ↔ ∀ c ∈ cs, ((s.core c).ctl .status).getLsbD bitWand = true := by
  rw [allWand, List.all_eq_true]

/-- The scan looks at the other cores' flags: the own one is set. -/
theorem allWand_setFlag_iff (s : State) : allWand (s.setFlag bitWand true) (gridCores s.cfg) = true ↔
    ∀ c, inGrid s.cfg c = true → c ≠ s.self → ((s.core c).ctl .status).getLsbD bitWand = true := by
  have hne : ∀ c, c ≠ s.self → (s.setFlag bitWand true).core c = s.core c := fun c hc => State.core_setCore_ne s _ hc
  rw [allWand_iff]
  refine ⟨fun h c hc hcs => ?_, fun h c hc => ?_⟩
  · rw [← hne c hcs]
    exact h c (mem_gridCores.mpr hc)
  · by_cases hcs : c = s.self
    · subst hcs
      exact (State.flag_setFlag s bitWand bitWand true (by decide)).trans (if_pos rfl)
    · rw [hne c hcs]
      exact h c (mem_gridCores.mp hc) hcs

/-- WAND's effect: its own flag, and, if every core's is then set, the interrupt on every core. -/
theorem wandEffect_cases (s : State) :
    (allWand (s.setFlag bitWand true) (gridCores s.cfg) = true ∧
      SetsBitOn .ilat s.cfg.irqWand (· ∈ gridCores s.cfg) (s.setFlag bitWand true) (wandEffect s)) ∨
    (¬ allWand (s.setFlag bitWand true) (gridCores s.cfg) = true ∧ wandEffect s = s.setFlag bitWand true) := by
  by_cases hall : allWand (s.setFlag bitWand true) (gridCores s.cfg) = true
  · refine .inl ⟨hall, ?_⟩
    have heffect : wandEffect s = forCores (fun u c => trigger u c u.cfg.irqWand none) (gridCores s.cfg)
        (s.setFlag bitWand true) := if_pos hall
    rw [heffect]
    refine setsBitOn_forCores (fun u c hu => ?_) _
    rw [show u.cfg = s.cfg from hu]
    exact setsBitOn_trigger u c _
  · exact .inr ⟨hall, if_neg hall⟩

theorem signalled_wandEffect (s : State) : Signalled [.status, .ilat] s (wandEffect s) := by
  have hflag := (signalled_setFlag s bitWand true).mono (rs' := [.status, .ilat]) (by decide)
  obtain ⟨-, hset⟩ | ⟨-, hset⟩ := wandEffect_cases s
  · exact hflag.trans (hset.signalled.mono (by decide))
  · rwa [hset]

/-- WAND's effect on STATUS is its own flag. -/
theorem status_wandEffect (s : State) (c : CoreId) :
    ((wandEffect s).core c).ctl .status = ((s.setFlag bitWand true).core c).ctl .status := by
  obtain ⟨-, hset⟩ | ⟨-, hset⟩ := wandEffect_cases s
  · exact hset.signalled.ctl (by decide) c
  · rw [hset]

/-- Settles O51. -/
theorem wiredAndCompletes : Obligations.WiredAndCompletes := by
  unfold Obligations.WiredAndCompletes
  intro s _
  have hsig := signalled_wandEffect s
  have hstatus : ∀ c, ((complete 2 s.pc .next (wandEffect s)).core c).ctl .status =
      ((s.setFlag bitWand true).core c).ctl .status := fun c =>
    (core_ctl_complete _ _ _ _ (by decide) (by decide) c).trans (status_wandEffect s c)
  have hilat : ∀ c, ((complete 2 s.pc .next (wandEffect s)).core c).ctl .ilat = ((wandEffect s).core c).ctl .ilat :=
    fun c => core_ctl_complete _ _ _ _ (by decide) (by decide) c
  have hflagIlat : ∀ c, ((s.setFlag bitWand true).core c).ctl .ilat = (s.core c).ctl .ilat :=
    (signalled_setFlag s bitWand true).ctl (by decide)
  have hflag : ∀ b, (complete 2 s.pc .next (wandEffect s)).flag b = if b = bitWand then true else s.flag b := by
    intro b
    have hself := (frame_complete 2 s.pc .next (wandEffect s)).self.trans hsig.rest.self
    rw [State.flag, State.ctl, State.me, hself, hstatus]
    exact State.flag_setFlag s bitWand b true (by decide)
  refine ⟨_, rfl, (hflag bitWand).trans (if_pos rfl), fun b hb => (hflag b).trans (if_neg hb), fun c hc => ?_,
    fun hall c hc => ?_, fun hall c hc => ?_, fun hall c => ?_, hsig.broadcast (by decide) 2⟩
  · rw [hstatus]
    exact congrArg (·.ctl .status) (State.core_setCore_ne s _ hc)
  all_goals
    rw [← allWand_setFlag_iff] at hall
    obtain ⟨hset, hbits⟩ | ⟨hset, hbits⟩ := wandEffect_cases s
  · intro b
    rw [hilat, (hbits.sets c (mem_gridCores.mpr hc)).bits b, hflagIlat]
  · exact absurd hall hset
  · rw [hilat, hbits.others c (fun hmem => by rw [mem_gridCores.mp hmem] at hc; cases hc), hflagIlat]
  · exact absurd hall hset
  · exact absurd hset hall
  · rw [hilat, hbits, hflagIlat]

end Sys2Proof.Machine
end

section
/-! TRAP (R311, R312): the recorded outcomes, and the system call. -/

namespace Sys2Proof.Machine

theorem exec_trap (n : BitVec 6) (s : State) : exec (.trap n) s = runInstr 2 s (trapEffect s n) := rfl

/-! ## The outcomes recorded (R311) -/

/-- What TRAP 3, 4 and 5 record of the executing core. -/
def recordOutcome (n : BitVec 6) (r0 : Word) (x : ECore) : ECore :=
  if n = 3 then { x with exitCode := r0 }
  else if n = 4 then { x with passed := true }
  else if n = 5 then { x with failed := true }
  else x

theorem trapEffect_outcome (s : State) {n : BitVec 6} (hn : n = 3 ∨ n = 4 ∨ n = 5) :
    trapEffect s n = .ok (.next, stopActive (s.modMe (recordOutcome n (s.reg 0)))) := by
  rcases hn with rfl | rfl | rfl <;> rfl

theorem trapEffect_syscall (s : State) : trapEffect s 7 = systemCall s := rfl

theorem trapEffect_undefined (s : State) {n : BitVec 6} (h3 : n ≠ 3) (h4 : n ≠ 4) (h5 : n ≠ 5) (h7 : n ≠ 7) :
    trapEffect s n = .refused (.trapCode n) := by
  rw [trapEffect, if_neg h3, if_neg h4, if_neg h5, if_neg h7]

/-- A record is of the outcomes alone. -/
theorem recordOutcome_rest (n : BitVec 6) (r0 : Word) (x : ECore) :
    (∀ k, (recordOutcome n r0 x).word k = x.word k) ∧ (recordOutcome n r0 x).mem = x.mem ∧
      (recordOutcome n r0 x).idle = x.idle ∧ (recordOutcome n r0 x).notes = x.notes := by
  unfold recordOutcome
  split_ifs <;> exact ⟨fun _ => rfl, rfl, rfl, rfl⟩

theorem recordOutcome_outcomes {n : BitVec 6} (r0 : Word) (x : ECore) (hn : n = 3 ∨ n = 4 ∨ n = 5) :
    (recordOutcome n r0 x).exitCode = (if n = 3 then r0 else x.exitCode) ∧
      (recordOutcome n r0 x).passed = (n == 4 || x.passed) ∧ (recordOutcome n r0 x).failed = (n == 5 || x.failed) := by
  rcases hn with rfl | rfl | rfl <;> exact ⟨rfl, rfl, rfl⟩

theorem trap_outcome (s : State) {n : BitVec 6} (hn : n = 3 ∨ n = 4 ∨ n = 5) : Next (exec (.trap n) s) fun t =>
    t.me.exitCode = (if n = 3 then s.reg 0 else s.me.exitCode) ∧ t.me.passed = (n == 4 || s.me.passed) ∧
    t.me.failed = (n == 5 || s.me.failed) ∧ t.me.idle = s.me.idle ∧ t.flag bitActive = false ∧
    (∀ b, b ≠ bitActive → t.flag b = s.flag b) ∧ t.me.notes = .validInstruction :: s.me.notes ∧
    Advanced s t (s.pc + 2) ∧ Frame s t [Ctl.index .pc, Ctl.index .lc, Ctl.index .status] := by
  obtain ⟨hwords, hmem, hidle, hnotes⟩ := recordOutcome_rest n (s.reg 0) s.me
  obtain ⟨hexit, hpassed, hfailed⟩ := recordOutcome_outcomes (s.reg 0) s.me hn
  have hflag : ∀ b, (stopActive (s.modMe (recordOutcome n (s.reg 0)))).flag b =
      if b = bitActive then false else s.flag b := by
    intro b
    rw [stopActive, State.flag_setFlag _ _ _ _ (by decide)]
    refine if_congr Iff.rfl rfl ?_
    rw [State.flag, State.ctl, State.me_modMe]
    exact congrArg (·.getLsbD b) (hwords _)
  have hrecorded : Frame s (s.modMe (recordOutcome n (s.reg 0))) [] := frame_modMe s _ [] hmem fun k _ => hwords k
  have hstopped := hrecorded.trans (frame_setFlag _ bitActive false)
  have hctl : ∀ r ∈ [Ctl.pc, .lc, .le, .ls], (stopActive (s.modMe (recordOutcome n (s.reg 0)))).ctl r = s.ctl r := by
    intro r hr
    refine hstopped.words _ ?_
    simp only [List.nil_append, List.mem_cons, List.not_mem_nil, or_false, Ctl.index_eq_iff]
    rintro rfl
    revert hr
    decide
  obtain ⟨st, hme⟩ : ∃ st, (stopActive (s.modMe (recordOutcome n (s.reg 0)))).me =
      (recordOutcome n (s.reg 0) s.me).setCtl .status st := ⟨_, by rw [stopActive, State.me_setFlag, State.me_modMe]⟩
  have hout := outcome_complete 2 s.pc Signal.next_ne_idle (stopActive (s.modMe (recordOutcome n (s.reg 0))))
  rw [exec_trap, trapEffect_outcome s hn]
  refine ⟨_, rfl, ?_, ?_, ?_, ?_, ?_, fun b hb => ?_, ?_, advanced_of_loop_kept hctl 2,
    (hstopped.trans (frame_complete 2 s.pc .next _)).mono (by decide)⟩
  · rw [hout.exitCode, hme, ← hexit]; rfl
  · rw [hout.passed, hme, ← hpassed]; rfl
  · rw [hout.failed, hme, ← hfailed]; rfl
  · rw [hout.idle, hme, ← hidle]; rfl
  · rw [flag_complete, hflag, if_pos rfl]
  · rw [flag_complete, hflag, if_neg hb]
  · rw [notes_complete, hme, ← hnotes]; rfl

/-! ## The system call (R312) -/

theorem memWrite_refused {s : State} {c : CoreId} {a : Word} {size : Access} {v : Word} {r : Refusal}
    (h : memWrite s c a size v = .refused r) : r = .narrowSideEffectWrite := by
  unfold memWrite at h
  split at h
  · split at h
    · split at h
      · cases h
      · split at h <;> cases h
        rfl
      · cases h
    · cases h
  · cases h

/-- The kernel's writes are made, or one of them is refused. -/
theorem kernelWrites_cases (ws : List KernelWrite) (s : State) : (∃ m, kernelWrites ws s = .ok m) ∨
    ∃ r, (r = .narrowSideEffectWrite ∨ r = .argumentError) ∧ kernelWrites ws s = .refused r := by
  induction ws generalizing s with
  | nil => exact .inl ⟨s, rfl⟩
  | cons w ws ih =>
    rw [kernelWrites]
    split
    case isFalse => exact .inr ⟨_, .inr rfl, rfl⟩
    case isTrue =>
      split
      next t _ => exact ih t
      next r hr => exact .inr ⟨r, .inl (memWrite_refused hr), rfl⟩
      next => exact ih s

theorem kernelWrites_of_ok {s m : State} {w : KernelWrite} {ws : List KernelWrite} (hgrid : inGrid s.cfg w.core = true)
    (h : memWrite s w.core w.addr w.size w.value = .ok m) : kernelWrites (w :: ws) s = kernelWrites ws m := by
  rw [kernelWrites, if_pos hgrid, h]

theorem kernelWrites_of_fault {s : State} {w : KernelWrite} {ws : List KernelWrite} (hgrid : inGrid s.cfg w.core = true)
    (h : aligned w.addr (accessBytes w.size) = false ∨ translate s.cfg w.core w.addr = .invalid) :
    kernelWrites (w :: ws) s = kernelWrites ws s := by
  rw [kernelWrites, if_pos hgrid]
  cases ha : aligned w.addr (accessBytes w.size) with
  | false => rw [memWrite_misaligned s _ _ ha]
  | true => rw [memWrite_invalid s _ ha (h.resolve_left (by rw [ha]; decide))]

theorem registers_writeReply (s : State) (a : SyscallReply) : Registers s (writeReply s a) [0, 1, 2, 3] :=
  (((registers_setReg s 0 a.b0).trans (registers_setReg _ 1 a.b1)).trans (registers_setReg _ 2 a.b2)).trans
    (registers_setReg _ 3 a.b3)

theorem sameMemory_writeReply (s : State) (a : SyscallReply) : SameMemory s (writeReply s a) :=
  (((sameMemory_setReg s _ _).trans (sameMemory_setReg _ _ _)).trans (sameMemory_setReg _ _ _)).trans
    (sameMemory_setReg _ _ _)

theorem ctl_writeReply (s : State) (a : SyscallReply) (r : Ctl) : (writeReply s a).ctl r = s.ctl r := by
  simp only [writeReply, State.ctl_setReg]

theorem reg_writeReply (s : State) (a : SyscallReply) : (writeReply s a).reg 0 = a.b0 ∧ (writeReply s a).reg 1 = a.b1 ∧
    (writeReply s a).reg 2 = a.b2 ∧ (writeReply s a).reg 3 = a.b3 := by
  have h01 : (0 : RegIdx) ≠ 1 := by decide
  have h02 : (0 : RegIdx) ≠ 2 := by decide
  have h03 : (0 : RegIdx) ≠ 3 := by decide
  have h12 : (1 : RegIdx) ≠ 2 := by decide
  have h13 : (1 : RegIdx) ≠ 3 := by decide
  have h23 : (2 : RegIdx) ≠ 3 := by decide
  simp only [writeReply, State.reg_setReg, h01, h02, h03, h12, h13, h23, if_true, if_false, and_self]

theorem Steady.sameOutcome {s t : State} (h : Steady s t) : SameOutcome s t := by
  obtain ⟨hidle, hpassed, hfailed, hexit⟩ := h.alike s.self
  have hme : t.me = t.core s.self := by rw [State.me, h.self]
  exact ⟨hme ▸ hidle, hme ▸ hpassed, hme ▸ hfailed, hme ▸ hexit⟩

/-- The end of a system call whose writes were made. -/
theorem systemCall_done {s m : State} (a : SyscallReply) (hst : Steady s m) :
    let t := complete 2 s.pc .next (writeReply m a)
    t.reg 0 = a.b0 ∧ t.reg 1 = a.b1 ∧ t.reg 2 = a.b2 ∧ t.reg 3 = a.b3 ∧
      (∀ k, k ∉ [0, 1, 2, 3, Ctl.index .pc, Ctl.index .lc] → t.me.word k = m.me.word k) ∧
      (∀ c, c ≠ s.self → t.core c = m.core c) ∧ t.me.mem = m.me.mem ∧ t.ext = m.ext ∧ SameOutcome s t ∧
      (s.pc = m.ctl .le ∧ m.ctl .lc ≠ 0 → t.pc = m.ctl .ls ∧ t.ctl .lc = m.ctl .lc - 1) ∧
      (¬(s.pc = m.ctl .le ∧ m.ctl .lc ≠ 0) → t.pc = m.pc + 2 ∧ t.ctl .lc = m.ctl .lc) := by
  have hframe := (registers_writeReply m a).frame.trans (frame_complete 2 s.pc .next (writeReply m a))
  have hsame := (sameMemory_writeReply m a).trans (sameMemory_complete_next (writeReply m a) 2 s.pc)
  have hdone := (hst.trans (steady_writeReply m a)).trans (steady_complete 2 s.pc Signal.next_ne_idle)
  obtain ⟨h0, h1, h2, h3⟩ := reg_writeReply m a
  refine ⟨(reg_complete _ _ _ _ 0).trans h0, (reg_complete _ _ _ _ 1).trans h1, (reg_complete _ _ _ _ 2).trans h2,
    (reg_complete _ _ _ _ 3).trans h3, fun k hk => hframe.words k hk,
    fun c hc => hframe.others c (by rw [hst.self]; exact hc), hsame.me hframe.self, hsame.ext, hdone.sameOutcome,
    fun h => ?loop, fun h => ?line⟩
  case loop =>
    rw [← ctl_writeReply m a, ← ctl_writeReply m a] at h ⊢
    exact complete_of_loop 2 .next h
  case line =>
    rw [← ctl_writeReply m a, ← ctl_writeReply m a] at h
    obtain ⟨hlc, hpc⟩ := complete_of_not_loop 2 .next h
    rw [hlc, hpc, ctl_writeReply m a, State.pc, ctl_writeReply m a]
    exact ⟨rfl, rfl⟩

theorem hasSystemCalls_of_none {k : KernelCap} (h : k = .none ∨ k = .debugging) : hasSystemCalls k = false := by
  rcases h with rfl | rfl <;> rfl

theorem hasSystemCalls_of_some {k : KernelCap} (h : k = .systemCalls ∨ k = .all) : hasSystemCalls k = true := by
  rcases h with rfl | rfl <;> rfl

/-- Settles O53. -/
theorem trapCompletes : Obligations.TrapCompletes := by
  unfold Obligations.TrapCompletes
  refine fun s => ⟨fun n hn => trap_outcome s hn, fun hkernel => ?nothing, fun hkernel => ?call,
    fun w ws hgrid => ⟨fun m hm => kernelWrites_of_ok hgrid hm, fun hfault => kernelWrites_of_fault hgrid hfault⟩,
    fun n h3 h4 h5 h7 => ?undefined⟩
  case nothing =>
    have hcall : ¬ hasSystemCalls s.cfg.kernel = true := by rw [hasSystemCalls_of_none hkernel]; exact Bool.false_ne_true
    rw [exec_trap, trapEffect_syscall, systemCall, if_neg hcall]
    exact ⟨_, rfl, completed_refl s 2⟩
  case call =>
    dsimp only
    rw [exec_trap, trapEffect_syscall, systemCall, if_pos (hasSystemCalls_of_some hkernel)]
    have hwrites := kernelWrites_steady (syscallReply s).writes (steady_fresh s (s.fresh + 1))
    obtain ⟨m, hm⟩ | ⟨r, hr, hrefused⟩ :=
      kernelWrites_cases (syscallReply s).writes { s with fresh := s.fresh + 1 }
    · rw [hm] at hwrites
      rw [hm, Res.ok_bind, runInstr_ok]
      exact .inl ⟨m, rfl, _, rfl, systemCall_done (syscallReply s) hwrites⟩
    · rw [hrefused, Res.refused_bind, runInstr_refused]
      exact .inr ⟨r, hr, rfl, rfl⟩
  case undefined => rw [exec_trap, trapEffect_undefined s h3 h4 h5 h7, runInstr_refused]

end Sys2Proof.Machine
end

section
/-! The float instructions run to their end (R274, R276 to R284): result, flags, exception, frame. -/

namespace Sys2Proof.Machine

/-! ## A result and the float flags written -/

/-- The magnitude of a word is zero: STATUS' test for BZ, on its low 31 bits. -/
theorem magnitude_eq_zero (w : Word) : (w &&& 0x7FFFFFFF#32 == 0) = decide (w.extractLsb' 0 31 = 0) := by
  have hmask : w &&& 0x7FFFFFFF#32 = (w.extractLsb' 0 31).setWidth 32 := by
    refine BitVec.eq_of_getLsbD_eq fun i hi => ?_
    have hbit : (0x7FFFFFFF#32).getLsbD i = decide (i < 31) := by
      have hall : ∀ j : Fin 32, (0x7FFFFFFF#32).getLsbD j = decide (j.val < 31) := by decide
      exact hall ⟨i, hi⟩
    simp only [BitVec.getLsbD_and, BitVec.getLsbD_setWidth, BitVec.getLsbD_extractLsb', hbit, hi, decide_true,
      Bool.true_and, Nat.zero_add]
    exact Bool.and_comm _ _
  rw [hmask, Bool.eq_iff_iff, beq_iff_eq, decide_eq_true_eq]
  refine ⟨fun h => ?_, fun h => by rw [h]; rfl⟩
  have hback := congrArg (BitVec.setWidth 31) h
  rwa [BitVec.setWidth_setWidth_of_le _ (by decide), BitVec.setWidth_eq] at hback

/-- A float instruction before its exception: a result in `rd`, STATUS written, nothing else. -/
structure FloatWritten (s u : State) (rd : RegIdx) (w st : Word) : Prop where
  result : u.reg rd = w
  status : u.ctl .status = st
  frame : Frame s u [rd.toNat, Ctl.index .status]
  outcome : SameOutcome s u
  notes : u.me.notes = s.me.notes

theorem floatWritten_regStatus (s : State) (rd : RegIdx) (w st : Word) :
    FloatWritten s ((s.setReg rd w).setCtl .status st) rd w st where
  result := by rw [State.reg_setCtl, State.reg_setReg_same]
  status := State.ctl_setCtl_same _ _ _
  frame := (frame_setReg s rd w).trans (frame_setCtl _ .status st)
  outcome := (outcome_setReg s rd w).trans (outcome_setCtl _ _ _)
  notes := by simp

/-- A free value used up before. -/
theorem floatWritten_fresh (s : State) (n : Nat) (rd : RegIdx) (w st : Word) :
    FloatWritten s ((State.setReg { s with fresh := n } rd w).setCtl .status st) rd w st := by
  have hfresh : Frame s { s with fresh := n } [] :=
    ⟨fun _ _ => rfl, fun _ _ => rfl, fun _ _ => rfl, rfl, rfl, rfl, rfl⟩
  have hsame : SameOutcome s { s with fresh := n } := ⟨rfl, rfl, rfl, rfl⟩
  obtain ⟨hresult, hstatus, hframe, hout, hnotes⟩ := floatWritten_regStatus { s with fresh := n } rd w st
  exact ⟨hresult, hstatus, hfresh.trans hframe, hsame.trans hout, hnotes⟩

/-- The float exception, latched if `raised` (R276). -/
def latchFloat (raised : Bool) (u : State) : State :=
  if raised then trigger u u.self irqSwExc (some .floatingPoint) else u

theorem raiseFloat_eq_latchFloat (u : State) (r : FpResult) :
    raiseFloat u r = latchFloat (eventEnabled (u.ctl .config) r) u := rfl

section
variable {s u : State} {rd : RegIdx} {w st : Word} (h : FloatWritten s u rd w st) (raised : Bool)
include h

theorem FloatWritten.frame_latchFloat :
    Frame s (latchFloat raised u) [rd.toNat, Ctl.index .status, Ctl.index .ilat] := by
  cases raised with
  | false => exact h.frame.mono fun k hk => List.mem_append_left [Ctl.index .ilat] hk
  | true =>
    refine (h.frame.trans (frame_trigger_self u irqSwExc (some .floatingPoint))).mono fun k hk => ?_
    simp only [List.cons_append, List.nil_append, List.mem_cons, List.not_mem_nil, or_false] at hk ⊢
    tauto

theorem FloatWritten.outcome_latchFloat : SameOutcome s (latchFloat raised u) := by
  cases raised with
  | false => exact h.outcome
  | true => exact h.outcome.trans (outcome_trigger_self u _ _)

theorem FloatWritten.notes_latchFloat : (latchFloat raised u).me.notes = s.me.notes := by
  cases raised with
  | false => exact h.notes
  | true => exact (congrArg ECore.notes (me_trigger_self u _ _)).trans h.notes

theorem FloatWritten.reg_latchFloat : (latchFloat raised u).reg rd = w := by
  rw [← h.result]
  cases raised with
  | false => rfl
  | true =>
    refine (frame_trigger_self u irqSwExc (some .floatingPoint)).words _ ?_
    simp only [List.mem_cons, List.not_mem_nil, or_false, not_or]
    exact ⟨(Ctl.index_ne_reg _ rd).symm, (Ctl.index_ne_reg _ rd).symm⟩

theorem FloatWritten.completed (width : Nat) : Completed s (complete width s.pc .next (latchFloat raised u))
    (s.pc + BitVec.ofNat 32 width) [rd.toNat, Ctl.index .status, Ctl.index .ilat] := by
  refine completed_next width (h.frame_latchFloat raised) (h.outcome_latchFloat raised) (h.notes_latchFloat raised)
    (loop_notin fun k hk => ?_)
  simp only [List.mem_cons, List.not_mem_nil, or_false] at hk
  obtain rfl | rfl | rfl := hk
  · exact .inl rd.isLt
  · exact .inr (.inl rfl)
  · exact .inr (.inr rfl)

/-- STATUS after the exception: the cause in its field, if one was latched. -/
theorem FloatWritten.flag_latchFloat (b : Nat) : (latchFloat raised u).flag b =
    if raised = true ∧ 16 ≤ b ∧ b < 16 + excauseBits s.cfg.arch then s.cfg.causes.floatingPoint.getLsbD (b - 16)
    else st.getLsbD b := by
  cases raised with
  | false => rw [if_neg fun hr => Bool.false_ne_true hr.1, ← h.status]; rfl
  | true =>
    obtain ⟨-, hcause, -⟩ := latch_spec u.cfg u.me irqSwExc (some .floatingPoint)
    have hbit := hcause .floatingPoint rfl b
    rw [h.frame.cfg] at hbit
    rw [State.flag, State.ctl, show latchFloat true u = trigger u u.self irqSwExc (some .floatingPoint) from rfl,
      me_trigger_self, h.frame.cfg, hbit, ← h.status]
    simp only [true_and]
    rfl

theorem FloatWritten.ilat_latchFloat (b : Nat) : ((latchFloat raised u).ctl .ilat).getLsbD b =
    ((raised && b == 1) || (s.ctl .ilat).getLsbD b) := by
  have hilat : u.ctl .ilat = s.ctl .ilat := by
    refine h.frame.words _ ?_
    simp only [List.mem_cons, List.not_mem_nil, or_false, not_or]
    exact ⟨Ctl.index_ne_reg _ rd, by decide⟩
  rw [← hilat]
  cases raised with
  | false => rfl
  | true =>
    obtain ⟨hlatch, -⟩ := latch_spec u.cfg u.me irqSwExc (some .floatingPoint)
    rw [State.ctl, show latchFloat true u = trigger u u.self irqSwExc (some .floatingPoint) from rfl, me_trigger_self,
      hlatch b]
    rfl

/-- A float instruction run to its end, from the bits of the STATUS word it wrote. -/
theorem FloatWritten.done (width : Nat) {z n v bis bvs bus : Bool} (hst : ∀ b, st.getLsbD b =
      if b = bitBUS then bus else if b = bitBVS then bvs else if b = bitBIS then bis else if b = bitBV then v
      else if b = bitBN then n else if b = bitBZ then z else s.flag b) :
    FloatDone s (complete width s.pc .next (latchFloat raised u)) width rd w z n v bis bvs bus raised := by
  have low : ∀ b, b < 16 → (complete width s.pc .next (latchFloat raised u)).flag b = st.getLsbD b := fun b hb => by
    rw [flag_complete, h.flag_latchFloat, if_neg (by omega)]
  refine ⟨(reg_complete _ _ _ _ rd).trans (h.reg_latchFloat raised), ?_, ?_, ?_, ?_, ?_, ?_, fun b hb hcause => ?_,
    fun hr b hb => ?_, fun b => ?_, h.completed raised width⟩
  · exact (low bitBZ (by decide)).trans (hst bitBZ)
  · exact (low bitBN (by decide)).trans (hst bitBN)
  · exact (low bitBV (by decide)).trans (hst bitBV)
  · exact (low bitBIS (by decide)).trans (hst bitBIS)
  · exact (low bitBVS (by decide)).trans (hst bitBVS)
  · exact (low bitBUS (by decide)).trans (hst bitBUS)
  · simp only [List.mem_cons, List.not_mem_nil, or_false, not_or] at hb
    obtain ⟨hz, hn, hv, hbis, hbvs, hbus⟩ := hb
    rw [flag_complete, h.flag_latchFloat, if_neg hcause, hst, if_neg hbus, if_neg hbvs, if_neg hbis, if_neg hv,
      if_neg hn, if_neg hz]
  · rw [flag_complete, h.flag_latchFloat, if_pos ⟨hr, by omega, by omega⟩, Nat.add_sub_cancel_left]
  · rw [ctl_complete _ _ _ _ (by decide) (by decide), h.ilat_latchFloat]

theorem FloatWritten.config : u.ctl .config = s.ctl .config := by
  refine h.frame.words _ ?_
  simp only [List.mem_cons, List.not_mem_nil, or_false, not_or]
  exact ⟨Ctl.index_ne_reg _ rd, by decide⟩

end

/-! ## The instructions -/

theorem runFloat_of_mode {s : State} (hmode : arithMode s = 0) (width : Nat) (u : State) :
    runFloat width s u = .next (complete width s.pc .next u) := by
  rw [runFloat, if_pos ((floatMode_iff s).mpr hmode), runNext, runInstr_ok]

/-- The result of an arithmetic instruction in `rd`, its flags and its exception. -/
theorem floatArithDone_of_written {s u : State} {rd : RegIdx} {r : FpResult} (hmode : arithMode s = 0) (width : Nat)
    (h : FloatWritten s u rd r.word (fpArithStatus (s.ctl .status) r)) :
    FloatArithDone s (runFloat width s (raiseFloat u r)) width rd r := by
  rw [runFloat_of_mode hmode, raiseFloat_eq_latchFloat, h.config]
  refine ⟨_, rfl, h.done _ width fun b => ?_⟩
  rw [fpArithStatus_bit, floatFlags_bit, magnitude_eq_zero]
  rfl

theorem floatArith_done {s : State} (hmode : arithMode s = 0) (width : Nat) (op : FpArithOp) (rd rn rm : RegIdx) :
    FloatArithDone s (floatArith width s op rd rn rm) width rd
      (fpArith s.cfg.fp s.cfg.arch op ((s.ctl .config).getLsbD bitRmode) false (s.reg rn) (s.reg rm) 0) :=
  floatArithDone_of_written hmode width (floatWritten_regStatus s rd _ _)

theorem floatFma_done {s : State} (hmode : arithMode s = 0) (width : Nat) (op : FpArithOp) (rd rn rm : RegIdx) :
    ∃ sign, FloatArithDone s (floatFma width s op rd rn rm) width rd
      (fpArith s.cfg.fp s.cfg.arch op ((s.ctl .config).getLsbD bitRmode) sign (s.reg rn) (s.reg rm) (s.reg rd)) :=
  ⟨_, floatArithDone_of_written hmode width (floatWritten_fresh s (s.fresh + 1) rd _ _)⟩

/-- Settles O41. -/
theorem floatArithmeticCompletes : Obligations.FloatArithmeticCompletes := by
  unfold Obligations.FloatArithmeticCompletes
  exact fun s hmode => ⟨fun rd rn rm => ⟨floatArith_done hmode 2 .fadd _ _ _, floatArith_done hmode 2 .fsub _ _ _,
      floatArith_done hmode 2 .fmul _ _ _⟩,
    fun rd rn rm => ⟨floatArith_done hmode 4 .fadd rd rn rm, floatArith_done hmode 4 .fsub rd rn rm,
      floatArith_done hmode 4 .fmul rd rn rm⟩⟩

/-- Settles O42: the sign is the free value that the instruction uses up. -/
theorem fusedArithmeticCompletes : Obligations.FusedArithmeticCompletes := by
  unfold Obligations.FusedArithmeticCompletes
  exact fun s hmode => ⟨fun rd rn rm => ⟨floatFma_done hmode 2 .fmadd _ _ _, floatFma_done hmode 2 .fmsub _ _ _⟩,
    fun rd rn rm => ⟨floatFma_done hmode 4 .fmadd rd rn rm, floatFma_done hmode 4 .fmsub rd rn rm⟩⟩

/-- The float flags written, the sticky bits as they were. -/
theorem floatFlags_kept (s : State) (z n v : Bool) (b : Nat) : (floatFlags (s.ctl .status) z n v).getLsbD b =
    if b = bitBUS then s.flag bitBUS else if b = bitBVS then s.flag bitBVS else if b = bitBIS then s.flag bitBIS
    else if b = bitBV then v else if b = bitBN then n else if b = bitBZ then z else s.flag b := by
  rw [floatFlags_bit]
  by_cases hbus : b = bitBUS
  · rw [hbus]; rfl
  by_cases hbvs : b = bitBVS
  · rw [hbvs]; rfl
  by_cases hbis : b = bitBIS
  · rw [hbis]; rfl
  rw [if_neg hbus, if_neg hbvs, if_neg hbis]
  rfl

theorem fixStatus_kept (s : State) (r : FpResult) (b : Nat) :
    (fixStatus (s.cfg.fp.options s.cfg.arch) (s.ctl .status) r).getLsbD b =
      if b = bitBUS then s.flag bitBUS else if b = bitBVS then s.flag bitBVS
      else if b = bitBIS then s.flag bitBIS || r.invalid
      else if b = bitBV then !(s.cfg.fp.options s.cfg.arch).convClearsBv && s.flag bitBV
      else if b = bitBN then r.word.getLsbD 31 else if b = bitBZ then decide (r.word = 0) else s.flag b := by
  rw [fixStatus_bit]
  by_cases hbis : b = bitBIS
  · rw [hbis]; rfl
  · rw [if_neg hbis, if_neg hbis, floatFlags_kept, if_neg hbis]
    rfl

/-- FIX has no event but the invalid one. -/
theorem fixOf_events (n : FpNumerics) (arch : Arch) (trunc : Bool) (a : Word) :
    (fixOf n arch trunc a).overflow = false ∧ (fixOf n arch trunc a).underflow = false := by
  unfold fixOf
  split
  · exact ⟨rfl, rfl⟩
  · unfold fpFix fixSaturate
    split_ifs <;> exact ⟨rfl, rfl⟩

theorem floatWrite_of_invalidOnly (s : State) (rd : RegIdx) (st : Word) {r : FpResult} (ho : r.overflow = false)
    (hu : r.underflow = false) : floatWrite s rd st r =
      latchFloat (r.invalid && (s.ctl .config).getLsbD bitIen) ((s.setReg rd r.word).setCtl .status st) := by
  rw [floatWrite, raiseFloat_eq_latchFloat, (floatWritten_regStatus s rd r.word st).config, eventEnabled, ho, hu,
    Bool.false_and, Bool.false_and, Bool.or_false, Bool.or_false]

theorem absOf_default (arch : Arch) (trunc : Bool) (a : Word) :
    absOf ruleFp arch trunc a = if isDenormal a then 0#32 else a &&& 0x7FFFFFFF#32 := by
  rw [absOf_ruleFp]
  have habs : fpAbs ruleOptions a = flushIn a &&& 0x7FFFFFFF#32 := by
    rw [fpAbs, show ruleOptions.fabsQuietsNan = false from rfl, Bool.false_and, if_neg Bool.false_ne_true]
  rw [habs, flushIn]
  split
  · rw [BitVec.and_assoc]
    exact BitVec.and_zero
  · rfl

section
variable {s : State} (hmode : arithMode s = 0) (width : Nat) (rd rn : RegIdx)
include hmode

theorem floatFromInt_done : Next (floatFromInt width s rd rn) fun t =>
    let r := floatOf s.cfg.fp s.cfg.arch ((s.ctl .config).getLsbD bitRmode) (s.reg rn)
    FloatDone s t width rd r (decide (r.extractLsb' 0 31 = 0)) (r.getLsbD 31)
      (!(s.cfg.fp.options s.cfg.arch).convClearsBv && s.flag bitBV) (s.flag bitBIS) (s.flag bitBVS) (s.flag bitBUS)
      false := by
  refine ⟨_, runFloat_of_mode hmode width _, (floatWritten_regStatus s rd _ _).done false width fun b => ?_⟩
  rw [floatStatus, floatFlags_kept, magnitude_eq_zero]
  rfl

theorem floatToInt_done : Next (floatToInt width s rd rn) fun t =>
    let r := fixOf s.cfg.fp s.cfg.arch ((s.ctl .config).getLsbD bitRmode) (s.reg rn)
    FloatDone s t width rd r.word (decide (r.word = 0)) (r.word.getLsbD 31)
      (!(s.cfg.fp.options s.cfg.arch).convClearsBv && s.flag bitBV) (s.flag bitBIS || r.invalid) (s.flag bitBVS)
      (s.flag bitBUS) (r.invalid && (s.ctl .config).getLsbD bitIen) := by
  obtain ⟨hoverflow, hunderflow⟩ := fixOf_events s.cfg.fp s.cfg.arch (truncMode s) (s.reg rn)
  refine ⟨_, runFloat_of_mode hmode width _, ?_⟩
  rw [floatWrite_of_invalidOnly s rd _ hoverflow hunderflow]
  exact (floatWritten_regStatus s rd _ _).done _ width (fixStatus_kept s _)

theorem floatAbs_done : Next (floatAbs width s rd rn) fun t =>
    let r := absOf s.cfg.fp s.cfg.arch ((s.ctl .config).getLsbD bitRmode) (s.reg rn)
    FloatDone s t width rd r (decide (r.extractLsb' 0 31 = 0)) false false (s.flag bitBIS) (s.flag bitBVS)
      (s.flag bitBUS) false := by
  refine ⟨_, runFloat_of_mode hmode width _, (floatWritten_regStatus s rd _ _).done false width fun b => ?_⟩
  rw [fabsStatus, floatFlags_kept, magnitude_eq_zero]
  rfl

end

/-- Settles O43: each form is one shared operation on its operand. -/
theorem floatUnaryCompletes : Obligations.FloatUnaryCompletes := by
  unfold Obligations.FloatUnaryCompletes
  intro s i width rd rn hmode
  refine ⟨?float, ?fix, ?fabs⟩
  case float =>
    rintro (⟨rfl, rfl⟩ | ⟨d, n, rfl, rfl, rfl, rfl⟩)
    · exact floatFromInt_done hmode 4 rd rn
    · exact floatFromInt_done hmode 2 (lowReg d) (lowReg n)
  case fix =>
    rintro (⟨rfl, rfl⟩ | ⟨d, n, rfl, rfl, rfl, rfl⟩)
    · exact floatToInt_done hmode 4 rd rn
    · exact floatToInt_done hmode 2 (lowReg d) (lowReg n)
  case fabs =>
    have hvalue : s.cfg.fp = ruleFp → absOf s.cfg.fp s.cfg.arch ((s.ctl .config).getLsbD bitRmode) (s.reg rn) =
        if isDenormal (s.reg rn) then 0#32 else s.reg rn &&& 0x7FFFFFFF#32 := fun hfp => hfp ▸ absOf_default _ _ _
    rintro (⟨rfl, rfl⟩ | ⟨d, n, rfl, rfl, rfl, rfl⟩)
    · obtain ⟨t, ht, hdone⟩ := floatAbs_done hmode 4 rd rn
      exact ⟨t, ht, hdone, hvalue⟩
    · obtain ⟨t, ht, hdone⟩ := floatAbs_done hmode 2 (lowReg d) (lowReg n)
      exact ⟨t, ht, hdone, hvalue⟩

end Sys2Proof.Machine
end

section
/-! Rounding (R273): to an integer, and to 24 significant bits. -/

namespace Sys2Proof.Machine

/-! ## Division by a power of two, rounded -/

theorem roundsUp_true (n k : Nat) : roundsUp true n k = false := rfl

theorem roundsUp_false_iff (n k : Nat) : roundsUp false n k = true ↔
    k ≠ 0 ∧ (2 ^ (k - 1) < n % 2 ^ k ∨ n % 2 ^ k = 2 ^ (k - 1) ∧ n / 2 ^ k % 2 = 1) := by
  simp only [roundsUp, Bool.not_false, Bool.true_and, Bool.and_eq_true, Bool.or_eq_true, bne_iff_ne, ne_eq, beq_iff_eq,
    decide_eq_true_eq, Nat.one_shiftLeft, Nat.shiftRight_eq_div_pow, gt_iff_lt]

theorem roundShift_true (n k : Nat) : roundShift true n k = n / 2 ^ k := by
  rw [roundShift, roundsUp_true, if_neg Bool.false_ne_true, Nat.shiftRight_eq_div_pow, Nat.add_zero]

theorem roundShift_cases (trunc : Bool) (n k : Nat) :
    roundShift trunc n k = n / 2 ^ k ∨ roundShift trunc n k = n / 2 ^ k + 1 := by
  rw [roundShift, Nat.shiftRight_eq_div_pow]
  split
  · exact .inr rfl
  · exact .inl rfl

/-- Rounded to nearest, the distance is at most that to the multiple below and to the one above, and at the tie the
quotient is even. -/
theorem roundShift_nearest (n k : Nat) :
    ((n : Int) - (roundShift false n k * 2 ^ k : Nat)).natAbs ≤ n % 2 ^ k ∧
    ((n : Int) - (roundShift false n k * 2 ^ k : Nat)).natAbs + n % 2 ^ k ≤ 2 ^ k ∧
    (2 * ((n : Int) - (roundShift false n k * 2 ^ k : Nat)).natAbs = 2 ^ k → roundShift false n k % 2 = 0) := by
  have hup := roundsUp_false_iff n k
  have hdiv := Nat.div_add_mod n (2 ^ k)
  have hmod := Nat.mod_lt n (Nat.two_pow_pos k)
  have hpow : k = 0 ∧ 2 ^ k = 1 ∨ k ≠ 0 ∧ 2 ^ k = 2 * 2 ^ (k - 1) := by
    cases k with
    | zero => exact .inl ⟨rfl, rfl⟩
    | succ j => exact .inr ⟨Nat.succ_ne_zero j, by rw [Nat.pow_succ, Nat.mul_comm, Nat.add_sub_cancel]⟩
  rw [roundShift, Nat.shiftRight_eq_div_pow]
  generalize n / 2 ^ k = q at *
  generalize n % 2 ^ k = r at *
  by_cases hr : roundsUp false n k = true
  · rw [if_pos hr]
    have hr := hup.mp hr
    have hmul : (q + 1) * 2 ^ k = 2 ^ k * q + 2 ^ k := by rw [Nat.add_mul, Nat.one_mul, Nat.mul_comm]
    rw [hmul]
    generalize 2 ^ k * q = x at *
    omega
  · rw [if_neg hr]
    have hr := mt hup.mpr hr
    have hmul : (q + 0) * 2 ^ k = 2 ^ k * q := by rw [Nat.add_zero, Nat.mul_comm]
    rw [hmul]
    generalize 2 ^ k * q = x at *
    omega

/-! ## Rounding to 24 bits -/

theorem roundMag_eq (trunc : Bool) (n : Nat) :
    roundMag trunc n = roundShift trunc n (excessBits n) * 2 ^ excessBits n := Nat.shiftLeft_eq _ _

/-- The bits kept are at most 24, and just 24 where some are dropped. -/
theorem kept_bounds (n : Nat) :
    n / 2 ^ excessBits n < 2 ^ 24 ∧ (excessBits n ≠ 0 → 2 ^ 23 ≤ n / 2 ^ excessBits n) := by
  have hpos := Nat.two_pow_pos (excessBits n)
  rw [Nat.div_lt_iff_lt_mul hpos, Nat.le_div_iff_mul_le hpos, ← Nat.pow_add, ← Nat.pow_add]
  constructor
  · refine Nat.lt_of_lt_of_le Nat.lt_log2_self (Nat.pow_le_pow_right (by decide) ?_)
    rw [excessBits]
    omega
  · intro hk
    have hn : n ≠ 0 := by
      rintro rfl
      exact hk rfl
    refine Nat.le_trans (Nat.pow_le_pow_right (by decide) ?_) (Nat.log2_self_le hn)
    rw [excessBits] at hk ⊢
    omega

/-- A rounded number lies between the truncated one and the next multiple above it. -/
theorem roundMag_bounds (trunc : Bool) (n : Nat) :
    n / 2 ^ excessBits n * 2 ^ excessBits n ≤ roundMag trunc n ∧ roundMag trunc n ≤ 2 ^ 24 * 2 ^ excessBits n := by
  obtain ⟨hlt, -⟩ := kept_bounds n
  rw [roundMag_eq]
  refine ⟨Nat.mul_le_mul_right _ ?_, Nat.mul_le_mul_right _ ?_⟩ <;>
    obtain h | h := roundShift_cases trunc n (excessBits n) <;> omega

/-- A number of at most 24 bits, scaled, that is not above `n`, is not above the truncated one. -/
theorem le_truncated {n m e : Nat} (hm : m < 2 ^ 24) (h : m * 2 ^ e ≤ n) :
    m * 2 ^ e ≤ n / 2 ^ excessBits n * 2 ^ excessBits n := by
  obtain ⟨-, hkept⟩ := kept_bounds n
  by_cases he : excessBits n ≤ e
  · have hsplit : m * 2 ^ e = m * 2 ^ (e - excessBits n) * 2 ^ excessBits n := by
      rw [Nat.mul_assoc, ← Nat.pow_add, Nat.sub_add_cancel he]
    rw [hsplit] at h ⊢
    exact Nat.mul_le_mul_right _ ((Nat.le_div_iff_mul_le (Nat.two_pow_pos _)).mpr h)
  · have hk := hkept (by omega)
    calc m * 2 ^ e ≤ 2 ^ 24 * 2 ^ (excessBits n - 1) :=
          Nat.mul_le_mul (Nat.le_of_lt hm) (Nat.pow_le_pow_right (by decide) (by omega))
      _ = 2 ^ 23 * 2 ^ excessBits n := by
          rw [← Nat.pow_add, ← Nat.pow_add]
          congr 1
          omega
      _ ≤ n / 2 ^ excessBits n * 2 ^ excessBits n := Nat.mul_le_mul_right _ hk

/-- A number of at most 24 bits, scaled, is not above the multiple below `n`, or not below the multiple above it. -/
theorem apart_of_scaled (n : Nat) {m : Nat} (hm : m < 2 ^ 24) (e : Nat) :
    m * 2 ^ e ≤ n / 2 ^ excessBits n * 2 ^ excessBits n ∨
      n / 2 ^ excessBits n * 2 ^ excessBits n + 2 ^ excessBits n ≤ m * 2 ^ e := by
  by_cases h : m * 2 ^ e ≤ n
  · exact .inl (le_truncated hm h)
  · refine .inr ?_
    obtain ⟨-, hkept⟩ := kept_bounds n
    have hfloor := Nat.div_mul_le_self n (2 ^ excessBits n)
    by_cases he : excessBits n ≤ e
    · have hsplit : m * 2 ^ e = m * 2 ^ (e - excessBits n) * 2 ^ excessBits n := by
        rw [Nat.mul_assoc, ← Nat.pow_add, Nat.sub_add_cancel he]
      rw [hsplit] at h ⊢
      have hlt : n / 2 ^ excessBits n < m * 2 ^ (e - excessBits n) :=
        (Nat.div_lt_iff_lt_mul (Nat.two_pow_pos _)).mpr (Nat.not_le.mp h)
      have := Nat.mul_le_mul_right (2 ^ excessBits n) hlt
      rwa [Nat.succ_mul] at this
    · refine absurd (Nat.le_trans ?_ hfloor) h
      have hk := hkept (by omega)
      calc m * 2 ^ e ≤ 2 ^ 24 * 2 ^ (excessBits n - 1) :=
            Nat.mul_le_mul (Nat.le_of_lt hm) (Nat.pow_le_pow_right (by decide) (by omega))
        _ = 2 ^ 23 * 2 ^ excessBits n := by
            rw [← Nat.pow_add, ← Nat.pow_add]
            congr 1
            omega
        _ ≤ n / 2 ^ excessBits n * 2 ^ excessBits n := Nat.mul_le_mul_right _ hk

theorem roundMag_true (n : Nat) : roundMag true n = n / 2 ^ excessBits n * 2 ^ excessBits n := by
  rw [roundMag_eq, roundShift_true]

/-- Settles O46: the neighbours of `n` among the numbers of 24 bits are the multiples around it. -/
theorem roundingIsNearest : Obligations.RoundingIsNearest := by
  unfold Obligations.RoundingIsNearest
  intro n
  obtain ⟨hlt, -⟩ := kept_bounds n
  obtain ⟨hbelow, habove, heven⟩ := roundShift_nearest n (excessBits n)
  have hfloor := Nat.div_mul_le_self n (2 ^ excessBits n)
  refine ⟨⟨_, _, hlt, roundMag_true n⟩,
    ⟨roundShift false n (excessBits n), excessBits n, ?_, roundMag_eq false n, by omega, heven⟩,
    by rw [roundMag_true]; exact hfloor, fun m e hm => ⟨fun h => ?_, ?_⟩⟩
  · obtain h | h := roundShift_cases false n (excessBits n) <;> omega
  · rw [roundMag_true]
    exact le_truncated hm h
  · rw [← roundMag_eq] at hbelow habove
    have hdiv := Nat.div_add_mod n (2 ^ excessBits n)
    rw [Nat.mul_comm] at hdiv
    obtain h | h := apart_of_scaled n hm e <;> omega

end Sys2Proof.Machine
end

section
/-! The fields of a float word (R272), the flush of a denormal, and the words the arithmetic makes. -/

namespace Sys2Proof.Machine

/-! ## The three fields -/

theorem fpSign_eq (b : Word) : fpSign b = decide (2 ^ 31 ≤ b.toNat) := getLsbD_31 b

theorem fpExp_eq (b : Word) : fpExp b = b.toNat / 2 ^ 23 % 2 ^ 8 := by
  rw [fpExp, BitVec.extractLsb'_toNat, Nat.shiftRight_eq_div_pow]

theorem fpFrac_eq (b : Word) : fpFrac b = b.toNat % 2 ^ 23 := by
  rw [fpFrac, BitVec.extractLsb'_toNat, Nat.shiftRight_zero]

theorem eq_of_fields {a b : Word} (hs : fpSign a = fpSign b) (he : fpExp a = fpExp b) (hf : fpFrac a = fpFrac b) :
    a = b := by
  have ha := a.isLt
  have hb := b.isLt
  rw [fpSign_eq, fpSign_eq, decide_eq_decide] at hs
  rw [fpExp_eq, fpExp_eq] at he
  rw [fpFrac_eq, fpFrac_eq] at hf
  apply BitVec.eq_of_toNat_eq
  omega

theorem fpExp_and (x y : Word) : fpExp (x &&& y) = fpExp x &&& fpExp y := by
  rw [fpExp, BitVec.extractLsb'_and, BitVec.toNat_and]
  rfl

theorem fpExp_or (x y : Word) : fpExp (x ||| y) = fpExp x ||| fpExp y := by
  rw [fpExp, BitVec.extractLsb'_or, BitVec.toNat_or]
  rfl

theorem fpExp_xor (x y : Word) : fpExp (x ^^^ y) = fpExp x ^^^ fpExp y := by
  rw [fpExp, BitVec.extractLsb'_xor, BitVec.toNat_xor]
  rfl

theorem fpFrac_and (x y : Word) : fpFrac (x &&& y) = fpFrac x &&& fpFrac y := by
  rw [fpFrac, BitVec.extractLsb'_and, BitVec.toNat_and]
  rfl

theorem fpFrac_or (x y : Word) : fpFrac (x ||| y) = fpFrac x ||| fpFrac y := by
  rw [fpFrac, BitVec.extractLsb'_or, BitVec.toNat_or]
  rfl

theorem fpFrac_xor (x y : Word) : fpFrac (x ^^^ y) = fpFrac x ^^^ fpFrac y := by
  rw [fpFrac, BitVec.extractLsb'_xor, BitVec.toNat_xor]
  rfl

theorem fpExp_signBit : fpExp 0x80000000#32 = 0 := by decide
theorem fpFrac_signBit : fpFrac 0x80000000#32 = 0 := by decide

/-! ## The sign bit set, changed, and alone -/

@[simp] theorem fpExp_withSign (sign : Bool) (m : Word) : fpExp (withSign sign m) = fpExp m := by
  cases sign
  · rfl
  · exact (fpExp_or m _).trans (by rw [fpExp_signBit, Nat.or_zero])

@[simp] theorem fpFrac_withSign (sign : Bool) (m : Word) : fpFrac (withSign sign m) = fpFrac m := by
  cases sign
  · rfl
  · exact (fpFrac_or m _).trans (by rw [fpFrac_signBit, Nat.or_zero])

theorem fpSign_withSign (sign : Bool) {m : Word} (hm : fpSign m = false) : fpSign (withSign sign m) = sign := by
  cases sign
  · exact hm
  · rw [withSign, if_pos rfl, fpSign, BitVec.getLsbD_or, show (0x80000000#32).getLsbD 31 = true from rfl, Bool.or_true]

theorem fpExp_negated (b : Word) : fpExp (b ^^^ 0x80000000#32) = fpExp b := by
  rw [fpExp_xor, fpExp_signBit, Nat.xor_zero]

theorem fpFrac_negated (b : Word) : fpFrac (b ^^^ 0x80000000#32) = fpFrac b := by
  rw [fpFrac_xor, fpFrac_signBit, Nat.xor_zero]

theorem fpSign_negated (b : Word) : fpSign (b ^^^ 0x80000000#32) = !fpSign b := by
  rw [fpSign, BitVec.getLsbD_xor, show (0x80000000#32).getLsbD 31 = true from rfl, Bool.xor_true]
  rfl

theorem isNaN_negated (b : Word) : isNaN (b ^^^ 0x80000000#32) = isNaN b := by
  rw [isNaN, fpExp_negated, fpFrac_negated, isNaN]

theorem isInf_negated (b : Word) : isInf (b ^^^ 0x80000000#32) = isInf b := by
  rw [isInf, fpExp_negated, fpFrac_negated, isInf]

theorem signedInt_not (sign : Bool) (n : Nat) : signedInt (!sign) n = -signedInt sign n := by
  cases sign
  · rfl
  · exact (Int.neg_neg _).symm

theorem fpValue_negated (b : Word) : fpValue (b ^^^ 0x80000000#32) = -fpValue b := by
  rw [fpValue, fpMag, fpSign_negated, fpExp_negated, fpFrac_negated, signedInt_not, fpValue, fpMag]

theorem fpExp_signAlone (b : Word) : fpExp (b &&& 0x80000000#32) = 0 := by
  rw [fpExp_and, fpExp_signBit, Nat.and_zero]

theorem fpFrac_signAlone (b : Word) : fpFrac (b &&& 0x80000000#32) = 0 := by
  rw [fpFrac_and, fpFrac_signBit, Nat.and_zero]

theorem fpSign_signAlone (b : Word) : fpSign (b &&& 0x80000000#32) = fpSign b := by
  rw [fpSign, BitVec.getLsbD_and, show (0x80000000#32).getLsbD 31 = true from rfl, Bool.and_true]
  rfl

/-! ## The flush -/

theorem isDenormal_iff (b : Word) : isDenormal b = true ↔ fpExp b = 0 ∧ fpFrac b ≠ 0 := by
  rw [isDenormal, Bool.and_eq_true, beq_iff_eq, bne_iff_ne]

theorem flushIn_of_not {b : Word} (h : isDenormal b = false) : flushIn b = b :=
  if_neg (ne_true_of_eq_false h)

theorem isDenormal_of_exp {b : Word} (h : fpExp b ≠ 0) : isDenormal b = false :=
  Bool.eq_false_iff.mpr fun hd => h ((isDenormal_iff b).mp hd).1

theorem isDenormal_of_frac {b : Word} (h : fpFrac b = 0) : isDenormal b = false :=
  Bool.eq_false_iff.mpr fun hd => ((isDenormal_iff b).mp hd).2 h

@[simp] theorem fpExp_flushIn (b : Word) : fpExp (flushIn b) = fpExp b := by
  rw [flushIn]
  split
  next h => rw [fpExp_signAlone, ((isDenormal_iff b).mp h).1]
  next => rfl

@[simp] theorem fpSign_flushIn (b : Word) : fpSign (flushIn b) = fpSign b := by
  rw [flushIn]
  split
  · exact fpSign_signAlone b
  · rfl

@[simp] theorem isDenormal_flushIn (b : Word) : isDenormal (flushIn b) = false := by
  rw [flushIn]
  split
  next => exact isDenormal_of_frac (fpFrac_signAlone b)
  next h => exact Bool.eq_false_iff.mpr h

theorem fpFrac_flushIn {b : Word} (h : fpExp b = 255) : fpFrac (flushIn b) = fpFrac b := by
  rw [flushIn_of_not (isDenormal_of_exp (h ▸ by decide))]

@[simp] theorem isNaN_flushIn (b : Word) : isNaN (flushIn b) = isNaN b := by
  by_cases h : fpExp b = 255
  · rw [isNaN, fpExp_flushIn, fpFrac_flushIn h, isNaN]
  · rw [isNaN, fpExp_flushIn, isNaN, beq_false_of_ne h, Bool.false_and, Bool.false_and]

@[simp] theorem isInf_flushIn (b : Word) : isInf (flushIn b) = isInf b := by
  by_cases h : fpExp b = 255
  · rw [isInf, fpExp_flushIn, fpFrac_flushIn h, isInf]
  · rw [isInf, fpExp_flushIn, isInf, beq_false_of_ne h, Bool.false_and, Bool.false_and]

@[simp] theorem flushIn_flushIn (b : Word) : flushIn (flushIn b) = flushIn b := flushIn_of_not (isDenormal_flushIn b)

theorem isNaN_of_finite {b : Word} (h : fpExp b ≠ 255) : isNaN b = false := by
  rw [isNaN, beq_false_of_ne h, Bool.false_and]

theorem isInf_of_finite {b : Word} (h : fpExp b ≠ 255) : isInf b = false := by
  rw [isInf, beq_false_of_ne h, Bool.false_and]

theorem not_isNaN_and_isInf {b : Word} (h : isInf b = true) : isNaN b = false := by
  rw [isInf, Bool.and_eq_true, beq_iff_eq, beq_iff_eq] at h
  rw [isNaN, h.2, bne_self_eq_false, Bool.and_false]

theorem not_isZero_of_isInf {b : Word} (h : isInf b = true) : isZero b = false := by
  rw [isInf, Bool.and_eq_true, beq_iff_eq, beq_iff_eq] at h
  rw [isZero, h.1]
  rfl

/-! ## The quiet NaN and the infinities -/

theorem fpExp_qNaN (fp : FpConfig) (sign : Bool) : fpExp (qNaN fp sign) = 255 := by
  have hlow : fpExp (fp.qnanLow.setWidth 32) = 0 := by
    have := fp.qnanLow.isLt
    rw [fpExp_eq, BitVec.toNat_setWidth]
    omega
  rw [qNaN, fpExp_withSign, fpExp_or, hlow]
  decide

theorem quiet_qNaN (fp : FpConfig) (sign : Bool) : (qNaN fp sign).getLsbD 22 = true := by
  have h : (0x7FC00000#32 ||| fp.qnanLow.setWidth 32).getLsbD 22 = true := by
    rw [BitVec.getLsbD_or, show (0x7FC00000#32).getLsbD 22 = true from rfl, Bool.true_or]
  cases sign
  · exact h
  · rw [qNaN, withSign, if_pos rfl, BitVec.getLsbD_or, h, Bool.true_or]

theorem fpSign_qNaN (fp : FpConfig) (sign : Bool) : fpSign (qNaN fp sign) = sign := by
  refine fpSign_withSign sign ?_
  have hlow : (fp.qnanLow.setWidth 32).getLsbD 31 = false := by
    have := fp.qnanLow.isLt
    rw [getLsbD_31, BitVec.toNat_setWidth, decide_eq_false_iff_not]
    omega
  rw [fpSign, BitVec.getLsbD_or, hlow]
  rfl

theorem isDenormal_qNaN (fp : FpConfig) (sign : Bool) : isDenormal (qNaN fp sign) = false :=
  isDenormal_of_exp (by rw [fpExp_qNaN]; decide)

theorem infinity_eq (sign : Bool) : infinity sign = if sign then 0xFF800000#32 else 0x7F800000#32 := by
  cases sign <;> rfl

theorem isDenormal_infinity (sign : Bool) : isDenormal (infinity sign) = false := by
  cases sign <;> decide

end Sys2Proof.Machine
end

section
/-! The result pipeline (R273): the word of a rounded magnitude, and the four ends of `fpRound`. -/

namespace Sys2Proof.Machine

/-! ## The word of a rounded magnitude -/

/-- The leading bit of a magnitude in the normal range. -/
theorem log2_of_normal {r : Nat} (hlo : 2 ^ 172 ≤ r) (hhi : r < 2 ^ 426) : 172 ≤ r.log2 ∧ r.log2 < 426 :=
  have hr : r ≠ 0 := by
    rintro rfl
    exact absurd hlo (by decide)
  ⟨(Nat.le_log2 hr).mpr hlo, (Nat.log2_lt hr).mpr hhi⟩

/-- The 24 leading bits of a magnitude of more than 24. -/
theorem significand_bounds {r : Nat} (h : 23 ≤ r.log2) :
    2 ^ 23 ≤ r / 2 ^ (r.log2 - 23) ∧ r / 2 ^ (r.log2 - 23) < 2 ^ 24 := by
  have hr : r ≠ 0 := by
    rintro rfl
    exact absurd h (by decide)
  rw [Nat.le_div_iff_mul_le (Nat.two_pow_pos _), Nat.div_lt_iff_lt_mul (Nat.two_pow_pos _), ← Nat.pow_add, ← Nat.pow_add,
    Nat.add_sub_cancel' h, show 24 + (r.log2 - 23) = r.log2 + 1 by omega]
  exact ⟨Nat.log2_self_le hr, Nat.lt_log2_self⟩

/-- A word of an exponent and a fraction. -/
theorem fields_of_parts {e f : Nat} (he : e < 2 ^ 8) (hf : f < 2 ^ 23) :
    fpSign (BitVec.ofNat 32 (e <<< 23 + f)) = false ∧ fpExp (BitVec.ofNat 32 (e <<< 23 + f)) = e ∧
      fpFrac (BitVec.ofNat 32 (e <<< 23 + f)) = f := by
  rw [fpSign_eq, fpExp_eq, fpFrac_eq, BitVec.toNat_ofNat, Nat.shiftLeft_eq, decide_eq_false_iff_not]
  omega

theorem encodeMag_fields (sign : Bool) {r : Nat} (hlo : 2 ^ 172 ≤ r) (hhi : r < 2 ^ 426) :
    fpSign (encodeMag sign r) = sign ∧ fpExp (encodeMag sign r) = r.log2 - 171 ∧
      fpFrac (encodeMag sign r) = r / 2 ^ (r.log2 - 23) - 2 ^ 23 := by
  obtain ⟨hl, hu⟩ := log2_of_normal hlo hhi
  obtain ⟨-, hsig⟩ := significand_bounds (by omega : 23 ≤ r.log2)
  rw [encodeMag, fpExp_withSign, fpFrac_withSign, Nat.shiftRight_eq_div_pow]
  obtain ⟨hs, he, hf⟩ := fields_of_parts (e := r.log2 - 171) (f := r / 2 ^ (r.log2 - 23) - 2 ^ 23)
    (by omega) (by omega)
  exact ⟨fpSign_withSign sign hs, he, hf⟩

/-- The exponent of an encoded magnitude is that of a normal number. -/
theorem encodeMag_normal (sign : Bool) {r : Nat} (hlo : 2 ^ 172 ≤ r) (hhi : r < 2 ^ 426) :
    fpExp (encodeMag sign r) ≠ 0 ∧ fpExp (encodeMag sign r) ≠ 255 := by
  obtain ⟨hl, hu⟩ := log2_of_normal hlo hhi
  obtain ⟨-, he, -⟩ := encodeMag_fields sign hlo hhi
  omega

/-- A magnitude of 24 leading bits and zeros is the value of its word. -/
theorem fpMag_encodeMag (sign : Bool) {r : Nat} (hlo : 2 ^ 172 ≤ r) (hhi : r < 2 ^ 426)
    (hdvd : 2 ^ (r.log2 - 23) ∣ r) : fpMag (encodeMag sign r) * 2 ^ 149 = r := by
  obtain ⟨hl, hu⟩ := log2_of_normal hlo hhi
  obtain ⟨hsig, -⟩ := significand_bounds (by omega : 23 ≤ r.log2)
  obtain ⟨-, he, hf⟩ := encodeMag_fields sign hlo hhi
  rw [fpMag, if_neg (encodeMag_normal sign hlo hhi).1, he, hf, Nat.shiftLeft_eq, Nat.mul_assoc, ← Nat.pow_add,
    show r.log2 - 171 - 1 + 149 = r.log2 - 23 by omega]
  have hadd : 0x800000 + (r / 2 ^ (r.log2 - 23) - 2 ^ 23) = r / 2 ^ (r.log2 - 23) := Nat.add_sub_cancel' hsig
  rw [hadd]
  exact Nat.div_mul_cancel hdvd

/-! ## Rounded magnitudes -/

/-- A rounded magnitude has 24 leading bits and zeros after them. -/
theorem roundMag_dvd (trunc : Bool) (n : Nat) : 2 ^ ((roundMag trunc n).log2 - 23) ∣ roundMag trunc n := by
  obtain ⟨-, hle⟩ := roundMag_bounds trunc n
  by_cases hr : roundMag trunc n = 0
  · rw [hr]
    exact Nat.dvd_zero _
  · have hself := Nat.log2_self_le hr
    rw [← Nat.pow_add] at hle
    have hlog : (roundMag trunc n).log2 ≤ 24 + excessBits n :=
      (Nat.pow_le_pow_iff_right (by decide : 1 < 2)).mp (Nat.le_trans hself hle)
    by_cases htop : (roundMag trunc n).log2 = 24 + excessBits n
    · -- The carry out of the significand: the magnitude is a power of two.
      rw [htop] at hself
      rw [htop, Nat.le_antisymm hle hself]
      exact Nat.pow_dvd_pow 2 (by omega)
    · refine Nat.dvd_trans (Nat.pow_dvd_pow 2 (by omega : _ ≤ excessBits n)) ?_
      rw [roundMag_eq]
      exact Nat.dvd_mul_left _ _

/-- Rounding does not go below a power of two. -/
theorem le_roundMag (trunc : Bool) {e n : Nat} (h : 2 ^ e ≤ n) : 2 ^ e ≤ roundMag trunc n := by
  have hle := le_truncated (m := 1) (e := e) (by decide) ((Nat.one_mul _).le.trans h)
  rw [Nat.one_mul] at hle
  exact Nat.le_trans hle (roundMag_bounds trunc n).1

theorem roundMag_zero (trunc : Bool) : roundMag trunc 0 = 0 := by
  cases trunc <;> decide

theorem signedInt_eq_mul (x : Int) (hx : x ≠ 0) (n : Nat) : signedInt (decide (x < 0)) n = x.sign * n := by
  obtain h | h := Int.lt_or_gt_of_ne hx
  · rw [decide_eq_true h, Int.sign_eq_neg_one_of_neg h, Int.neg_one_mul]
    rfl
  · rw [decide_eq_false (Int.not_lt.mpr (Int.le_of_lt h)), Int.sign_eq_one_of_pos h, Int.one_mul]
    rfl

theorem signedInt_mul (sign : Bool) (m n : Nat) : signedInt sign (m * n) = signedInt sign m * n := by
  cases sign
  · exact Int.natCast_mul m n
  · exact (congrArg Neg.neg (Int.natCast_mul m n)).trans (Int.neg_mul _ _).symm

/-! ## The ends of the pipeline -/

section
variable (fp : FpConfig) (trunc zeroSign : Bool)

theorem fpRound_zero : fpRound fp trunc zeroSign 0 =
    { word := withSign zeroSign 0, invalid := false, overflow := false, underflow := false } := by
  rw [fpRound]
  exact if_pos rfl

variable {x : Int} (hx : x ≠ 0)
include hx

theorem fpRound_of_ne : fpRound fp trunc zeroSign x =
    if 2 ^ 426 ≤ roundMag trunc x.natAbs then
      { word := overflowWord fp trunc (decide (x < 0)), invalid := false, overflow := true, underflow := false }
    else if (if fp.underflowAfterRounding then roundMag trunc x.natAbs else x.natAbs) < 2 ^ 172 then
      { word := withSign (decide (x < 0)) 0, invalid := false, overflow := false, underflow := true }
    else { word := encodeMag (decide (x < 0)) (roundMag trunc x.natAbs), invalid := false, overflow := false,
           underflow := false } := by
  rw [fpRound, overflowBound, minNormal, Nat.one_shiftLeft, Nat.one_shiftLeft]
  exact if_neg hx

theorem fpRound_overflow (h : 2 ^ 426 ≤ roundMag trunc x.natAbs) : fpRound fp trunc zeroSign x =
    { word := overflowWord fp trunc (decide (x < 0)), invalid := false, overflow := true, underflow := false } := by
  rw [fpRound_of_ne fp trunc zeroSign hx, if_pos h]

theorem fpRound_underflow (hafter : fp.underflowAfterRounding = true) (h : roundMag trunc x.natAbs < 2 ^ 172) :
    fpRound fp trunc zeroSign x =
      { word := withSign (decide (x < 0)) 0, invalid := false, overflow := false, underflow := true } := by
  have hbelow : roundMag trunc x.natAbs < 2 ^ 426 := Nat.lt_trans h (Nat.pow_lt_pow_right (by decide) (by decide))
  rw [fpRound_of_ne fp trunc zeroSign hx, if_neg (Nat.not_le.mpr hbelow), if_pos hafter, if_pos h]

theorem fpRound_normal (hafter : fp.underflowAfterRounding = true) (hlo : 2 ^ 172 ≤ roundMag trunc x.natAbs)
    (hhi : roundMag trunc x.natAbs < 2 ^ 426) : fpRound fp trunc zeroSign x =
      { word := encodeMag (decide (x < 0)) (roundMag trunc x.natAbs), invalid := false, overflow := false,
        underflow := false } := by
  rw [fpRound_of_ne fp trunc zeroSign hx, if_neg (Nat.not_le.mpr hhi), if_pos hafter, if_neg (Nat.not_lt.mpr hlo)]

/-- In the normal range the word stands for the rounded magnitude, with the sign of the exact result. -/
theorem fpRound_normal_value (hafter : fp.underflowAfterRounding = true) (hlo : 2 ^ 172 ≤ roundMag trunc x.natAbs)
    (hhi : roundMag trunc x.natAbs < 2 ^ 426) :
    fpExp (fpRound fp trunc zeroSign x).word ≠ 255 ∧
      fpValue (fpRound fp trunc zeroSign x).word * 2 ^ 149 = x.sign * roundMag trunc x.natAbs := by
  rw [fpRound_normal fp trunc zeroSign hx hafter hlo hhi]
  refine ⟨(encodeMag_normal _ hlo hhi).2, ?_⟩
  obtain ⟨hs, -, -⟩ := encodeMag_fields (decide (x < 0)) hlo hhi
  calc fpValue (encodeMag (decide (x < 0)) (roundMag trunc x.natAbs)) * 2 ^ 149
      = signedInt (decide (x < 0))
          (fpMag (encodeMag (decide (x < 0)) (roundMag trunc x.natAbs)) * 2 ^ 149) := by
        rw [signedInt_mul, fpValue, hs]
        norm_num
    _ = x.sign * roundMag trunc x.natAbs := by
        rw [fpMag_encodeMag _ hlo hhi (roundMag_dvd trunc _), signedInt_eq_mul x hx]

end

/-! ## No result is a denormal -/

theorem isDenormal_overflowWord (fp : FpConfig) (trunc sign : Bool) :
    isDenormal (overflowWord fp trunc sign) = false := by
  rw [overflowWord]
  split
  · cases sign <;> decide
  · exact isDenormal_infinity sign

theorem isDenormal_zero (sign : Bool) : isDenormal (withSign sign 0) = false := by
  cases sign <;> decide

theorem isDenormal_fpRound (fp : FpConfig) (trunc zeroSign : Bool) (x : Int) :
    isDenormal (fpRound fp trunc zeroSign x).word = false := by
  by_cases hx : x = 0
  · rw [hx, fpRound_zero]
    exact isDenormal_zero zeroSign
  · -- Whichever magnitude counts, above the bound the rounded one is in range.
    have hrange : ¬ (if fp.underflowAfterRounding then roundMag trunc x.natAbs else x.natAbs) < 2 ^ 172 →
        2 ^ 172 ≤ roundMag trunc x.natAbs := by
      split
      next => exact Nat.not_lt.mp
      next => exact fun h => le_roundMag (e := 172) trunc (Nat.not_lt.mp h)
    rw [fpRound_of_ne fp trunc zeroSign hx]
    generalize (if fp.underflowAfterRounding then roundMag trunc x.natAbs else x.natAbs) = counted at hrange ⊢
    split
    next => exact isDenormal_overflowWord fp trunc _
    next hhi =>
      split
      next => exact isDenormal_zero _
      next hlo => exact isDenormal_of_exp (encodeMag_normal _ (hrange hlo) (Nat.not_le.mp hhi)).1

theorem isDenormal_fpInfinite (fp : FpConfig) (sign : Bool) : isDenormal (fpInfinite fp sign).word = false :=
  isDenormal_infinity sign

theorem isDenormal_fpInvalid (fp : FpConfig) (sign : Bool) : isDenormal (fpInvalid fp sign).word = false :=
  isDenormal_qNaN fp sign

end Sys2Proof.Machine
end

section
/-! What any choice of the numerics gives (R285, R287): O45, and the values of FIX that O48 shares. -/

namespace Sys2Proof.Machine

/-! ## No arithmetic result is a denormal -/

section
variable (fp : FpConfig) (trunc : Bool)

theorem isDenormal_fpSum (nanSign : Bool) (a b : Word) : isDenormal (fpSum fp trunc nanSign a b).word = false := by
  rw [fpSum]
  split
  · exact isDenormal_fpInvalid fp _
  split
  · exact isDenormal_fpInfinite fp _
  split
  · exact isDenormal_fpInfinite fp _
  · exact isDenormal_fpRound fp trunc _ _

theorem isDenormal_fpMul (a b : Word) : isDenormal (fpMul fp trunc a b).word = false := by
  simp only [fpMul]
  split
  · exact isDenormal_fpInvalid fp _
  split
  · exact isDenormal_fpInfinite fp _
  · exact isDenormal_fpRound fp trunc _ _

theorem isDenormal_fpFma (negate nanSign : Bool) (a b c : Word) :
    isDenormal (fpFma fp trunc negate nanSign a b c).word = false := by
  simp only [fpFma]
  split
  · exact isDenormal_fpInvalid fp _
  split
  · exact isDenormal_fpInfinite fp _
  split
  · exact isDenormal_fpInfinite fp _
  · exact isDenormal_fpRound fp trunc _ _

variable (op : FpArithOp) (free : Bool) (a b c : Word)

theorem isDenormal_rulePath : isDenormal (rulePath fp op trunc free a b c).word = false := by
  cases op
  case fadd => exact isDenormal_fpSum fp trunc _ _ _
  case fsub => exact isDenormal_fpSum fp trunc _ _ _
  case fmul => exact isDenormal_fpMul fp trunc a b
  case fmadd => exact isDenormal_fpFma fp trunc _ _ a b c
  case fmsub => exact isDenormal_fpFma fp trunc _ _ a b c

theorem isDenormal_otherPath (arch : Arch) : isDenormal (otherPath fp arch op trunc free a b c).word = false := by
  obtain ⟨hnan, hother⟩ := otherPath_word fp arch op trunc free a b c
  cases h : nanOperand op a b c
  · obtain ⟨w, hw⟩ := hother h
    rw [hw, isDenormal_flushIn]
  · rw [hnan h, isDenormal_qNaN]

/-! ## Denormal operands are read as zero -/

theorem nanOperand_flushIn : nanOperand op (flushIn a) (flushIn b) (flushIn c) = nanOperand op a b c := by
  cases op <;> simp only [nanOperand, isNaN_flushIn]

theorem nanSignOf_flushIn : nanSignOf op free (flushIn a) (flushIn b) = nanSignOf op free a b := by
  cases op <;> simp only [nanSignOf, fpSign_flushIn]

theorem rulePath_flushIn :
    rulePath fp op trunc free (flushIn a) (flushIn b) (flushIn c) = rulePath fp op trunc free a b c := by
  cases op <;> simp only [rulePath, fpAdd, fpSub, fpMul, fpFma, fpSign_flushIn, flushIn_flushIn]

theorem otherPath_flushIn (arch : Arch) :
    otherPath fp arch op trunc free (flushIn a) (flushIn b) (flushIn c) = otherPath fp arch op trunc free a b c := by
  simp only [otherPath, flushIn_flushIn, nanOperand_flushIn, nanSignOf_flushIn]

/-! ## NaN operands -/

theorem fpSum_nan (nanSign : Bool) {a b : Word} (h : isNaN a = true ∨ isNaN b = true) :
    fpSum fp trunc nanSign a b = fpInvalid fp nanSign := by
  rw [fpSum, if_pos]
  rw [Bool.or_eq_true, Bool.or_eq_true]
  exact .inl h

theorem fpMul_nan {a b : Word} (h : isNaN a = true ∨ isNaN b = true) :
    fpMul fp trunc a b = fpInvalid fp (fpSign a != fpSign b) := by
  simp only [fpMul, isNaN_flushIn, fpSign_flushIn]
  rw [if_pos]
  rw [Bool.or_eq_true, Bool.or_eq_true]
  exact .inl h

theorem fpFma_nan (negate nanSign : Bool) {a b c : Word} (h : (isNaN a = true ∨ isNaN b = true) ∨ isNaN c = true) :
    fpFma fp trunc negate nanSign a b c = fpInvalid fp nanSign := by
  simp only [fpFma, isNaN_flushIn]
  rw [if_pos]
  rw [Bool.or_eq_true, Bool.or_eq_true, Bool.or_eq_true, Bool.or_eq_true]
  exact .inl (.inl h)

theorem rulePath_nan {op : FpArithOp} {a b c : Word} (h : nanOperand op a b c = true) :
    rulePath fp op trunc free a b c = fpInvalid fp (nanSignOf op free a b) := by
  cases op <;> simp only [nanOperand, Bool.or_eq_true] at h
  case fadd => exact fpSum_nan fp trunc _ (by rwa [isNaN_flushIn, isNaN_flushIn])
  case fsub => exact fpSum_nan fp trunc _ (by rwa [isNaN_negated, isNaN_flushIn, isNaN_flushIn])
  case fmul => exact fpMul_nan fp trunc h
  case fmadd => exact fpFma_nan fp trunc false free h
  case fmsub => exact fpFma_nan fp trunc true free h

end

theorem nanOperand_of_isNaN {op : FpArithOp} {a b c : Word}
    (h : isNaN a = true ∨ isNaN b = true ∨ (isNaN c = true ∧ (op = .fmadd ∨ op = .fmsub))) :
    nanOperand op a b c = true := by
  obtain h | h | ⟨h, rfl | rfl⟩ := h
  · cases op <;> simp only [nanOperand, h, Bool.true_or]
  · cases op <;> simp only [nanOperand, h, Bool.or_true, Bool.true_or]
  · exact Bool.or_eq_true _ _ ▸ .inr h
  · exact Bool.or_eq_true _ _ ▸ .inr h

/-- On either path a NaN operand gives the quiet NaN, and on that of the rules the invalid event too. -/
theorem fpArith_nan (n : FpNumerics) (arch : Arch) (trunc free : Bool) {op : FpArithOp} {a b c : Word}
    (h : nanOperand op a b c = true) :
    (fpArith n arch op trunc free a b c).word = qNaN (n.options arch) (nanSignOf op free a b) ∧
      (op ∉ (n.options arch).otherArith → (fpArith n arch op trunc free a b c).invalid = true) := by
  rw [fpArith]
  split
  next hother =>
    obtain ⟨hnan, -⟩ := otherPath_word (n.options arch) arch op trunc free a b c
    exact ⟨hnan h, fun hnot => absurd (List.contains_iff_mem.mp hother) hnot⟩
  next =>
    rw [rulePath_nan _ _ _ h]
    exact ⟨rfl, fun _ => rfl⟩

/-! ## The values of FIX -/

theorem natAbs_signedInt (sign : Bool) (n : Nat) : (signedInt sign n).natAbs = n := by
  cases sign
  · rfl
  · exact Int.natAbs_neg n

theorem signedInt_neg_iff {sign : Bool} {n : Nat} (h : signedInt sign n ≠ 0) :
    signedInt sign n < 0 ↔ sign = true := by
  cases sign
  · exact ⟨fun hneg => absurd hneg (Int.not_lt.mpr (Int.natCast_nonneg n)), fun hfalse => absurd hfalse (by decide)⟩
  · refine ⟨fun _ => rfl, fun _ => ?_⟩
    rw [signedInt, if_pos rfl] at h ⊢
    omega

theorem roundShift_true_bounds (n k : Nat) :
    roundShift true n k * 2 ^ k ≤ n ∧ n < (roundShift true n k + 1) * 2 ^ k := by
  rw [roundShift_true]
  exact ⟨Nat.div_mul_le_self n _, (Nat.div_lt_iff_lt_mul (Nat.two_pow_pos k)).mp (Nat.lt_succ_self _)⟩

/-- Rounded to nearest, the signed integer is at most a half away, and at the tie even. -/
theorem signedInt_nearest (sign : Bool) (n k : Nat) :
    2 * (signedInt sign (roundShift false n k) * 2 ^ k - signedInt sign n).natAbs ≤ 2 ^ k ∧
    (2 * (signedInt sign (roundShift false n k) * 2 ^ k - signedInt sign n).natAbs = 2 ^ k →
      signedInt sign (roundShift false n k) % 2 = 0) := by
  obtain ⟨hbelow, habove, heven⟩ := roundShift_nearest n k
  have hdist : (signedInt sign (roundShift false n k) * 2 ^ k - signedInt sign n).natAbs =
      ((n : Int) - (roundShift false n k * 2 ^ k : Nat)).natAbs := by
    push_cast
    cases sign
    · rw [← Int.natAbs_neg, Int.neg_sub]
      rfl
    · rw [signedInt, if_pos rfl, signedInt, if_pos rfl, Int.neg_mul]
      congr 1
      omega
  rw [hdist]
  refine ⟨by omega, fun h => ?_⟩
  have := heven h
  cases sign
  · rw [signedInt, if_neg Bool.false_ne_true]
    omega
  · rw [signedInt, if_pos rfl]
    omega

/-- FIX saturates to the range of the signed words, and the invalid event says that it did. -/
theorem fixSaturate_eq (sign : Bool) (m : Nat) : fixSaturate sign m =
    { word := BitVec.ofInt 32 (max (-2 ^ 31) (min (2 ^ 31 - 1) (signedInt sign m))),
      invalid := decide (signedInt sign m < -2 ^ 31 ∨ 2 ^ 31 - 1 < signedInt sign m), overflow := false,
      underflow := false } := by
  cases sign
  · have hval : signedInt false m = m := rfl
    rw [fixSaturate, if_neg Bool.false_ne_true, hval]
    split
    next h =>
      rw [min_eq_left (by omega), max_eq_right (by decide), decide_eq_true (by omega)]
      rfl
    next h =>
      rw [min_eq_right (by omega), max_eq_right (by omega), decide_eq_false (by omega), BitVec.ofInt_natCast]
  · have hval : signedInt true m = -m := rfl
    rw [fixSaturate, if_pos rfl, hval]
    split
    next h =>
      rw [min_eq_right (by omega), max_eq_left (by omega), decide_eq_true (by omega)]
      rfl
    next h =>
      rw [min_eq_right (by omega), max_eq_right (by omega), decide_eq_false (by omega), BitVec.ofInt_neg,
        BitVec.ofInt_natCast]

theorem fpFix_denormal (trunc : Bool) {a : Word} (h : isDenormal a = true) : fpFix trunc a =
    { word := 0, invalid := false, overflow := false, underflow := false } := by
  have he : fpExp a ≠ 255 := by
    rw [((isDenormal_iff a).mp h).1]
    decide
  rw [fpFix, isNaN_of_finite he, isInf_of_finite he, if_neg (by decide), if_pos h]

theorem fpFix_finite (trunc : Bool) {a : Word} (he : fpExp a ≠ 255) (hd : isDenormal a = false) :
    fpFix trunc a = fixSaturate (fpSign a) (roundShift trunc (fpMag a) 149) := by
  rw [fpFix, isNaN_of_finite he, isInf_of_finite he, if_neg (by decide), if_neg (ne_true_of_eq_false hd)]

/-- Settles O45: each path of a version, and FIX on the path of the rules where another one must agree with it. -/
theorem floatResultsAreSafe : Obligations.FloatResultsAreSafe := by
  unfold Obligations.FloatResultsAreSafe
  refine ⟨fun n arch op trunc free a b c => ⟨?_, ?_, fun hnan => ?_⟩,
    fun n arch trunc a => ⟨fixOf_nan n arch trunc a, fun hd => ?_, fun he hd => ?_⟩⟩
  · rw [fpArith]
    split
    · exact isDenormal_otherPath _ trunc op free a b c arch
    · exact isDenormal_rulePath _ trunc op free a b c
  · rw [fpArith, fpArith, otherPath_flushIn, rulePath_flushIn]
  · obtain ⟨hword, hinvalid⟩ := fpArith_nan n arch trunc free (nanOperand_of_isNaN hnan)
    rw [hword]
    refine ⟨fpExp_qNaN _ _, quiet_qNaN _ _, ?_, hinvalid⟩
    rw [fpSign_qNaN]
    rintro (rfl | rfl | rfl) <;> rfl
  · have hfix := fpFix_denormal trunc hd
    exact (fixOf_word n arch trunc a (congrArg FpResult.invalid hfix)).trans (congrArg FpResult.word hfix)
  · have hfix := (fpFix_finite trunc he hd).trans (fixSaturate_eq _ _)
    refine ⟨signedInt (fpSign a) (roundShift trunc (fpMag a) 149), ?_, ?_, signedInt_neg_iff, fun hlo hhi => ?_⟩
    · rintro rfl
      rw [natAbs_signedInt]
      exact roundShift_true_bounds _ _
    · rintro rfl
      exact (signedInt_nearest _ _ _).1
    · generalize signedInt (fpSign a) (roundShift trunc (fpMag a) 149) = k at hfix hlo hhi
      have hvalid : (fpFix trunc a).invalid = false := by
        rw [hfix]
        exact decide_eq_false (by omega)
      rw [fixOf_word n arch trunc a hvalid, hfix, min_eq_right (by omega), max_eq_right hlo]

end Sys2Proof.Machine
end

section
/-! The conversions by default (R282, R283): O48. -/

namespace Sys2Proof.Machine

theorem roundMag_int_bounds {n : Nat} (hn : n ≠ 0) (hle : n ≤ 2 ^ 31) (trunc : Bool) :
    2 ^ 172 ≤ roundMag trunc (n * 2 ^ 298) ∧ roundMag trunc (n * 2 ^ 298) < 2 ^ 426 := by
  have hlow : 2 ^ 172 ≤ n * 2 ^ 298 :=
    Nat.le_trans (Nat.pow_le_pow_right (by decide) (by decide)) (Nat.le_mul_of_pos_left _ (Nat.pos_of_ne_zero hn))
  have hne : n * 2 ^ 298 ≠ 0 := Nat.mul_ne_zero hn (Nat.ne_of_gt (Nat.two_pow_pos 298))
  have hlog : (n * 2 ^ 298).log2 ≤ 329 := by
    refine Nat.le_of_lt_succ ((Nat.log2_lt hne).mpr ?_)
    calc n * 2 ^ 298 ≤ 2 ^ 31 * 2 ^ 298 := Nat.mul_le_mul_right _ hle
      _ = 2 ^ 329 := (Nat.pow_add 2 31 298).symm
      _ < 2 ^ 330 := Nat.pow_lt_pow_right (by decide) (by decide)
  refine ⟨le_roundMag (e := 172) trunc hlow, ?_⟩
  calc roundMag trunc (n * 2 ^ 298) ≤ 2 ^ 24 * 2 ^ excessBits (n * 2 ^ 298) := (roundMag_bounds trunc _).2
    _ = 2 ^ (24 + excessBits (n * 2 ^ 298)) := (Nat.pow_add 2 24 _).symm
    _ < 2 ^ 426 := Nat.pow_lt_pow_right (by decide) (by rw [excessBits]; omega)

/-- FLOAT stands for the rounded integer: none is out of the normal range. -/
theorem fpFloat_value (trunc : Bool) (a : Word) : fpExp (fpFloat ruleOptions trunc a) ≠ 255 ∧
    fpValue (fpFloat ruleOptions trunc a) * 2 ^ 149 = a.toInt.sign * roundMag trunc (a.toInt.natAbs * 2 ^ 298) := by
  rw [fpFloat, Nat.one_shiftLeft]
  by_cases ha : a.toInt = 0
  · rw [ha, Int.zero_mul, fpRound_zero, Int.natAbs_zero, Nat.zero_mul, roundMag_zero]
    decide
  · have hle : a.toInt.natAbs ≤ 2 ^ 31 := by
      have := a.isLt
      rw [toInt_eq]
      split <;> omega
    have hpos : 0 < ((2 ^ 298 : Nat) : Int) := Int.natCast_pos.mpr (Nat.two_pow_pos 298)
    have habs : (a.toInt * (2 ^ 298 : Nat)).natAbs = a.toInt.natAbs * 2 ^ 298 := by
      rw [Int.natAbs_mul, Int.natAbs_natCast]
    have hsign : (a.toInt * (2 ^ 298 : Nat)).sign = a.toInt.sign := by
      rw [Int.sign_mul, Int.sign_eq_one_of_pos hpos, Int.mul_one]
    obtain ⟨hlo, hhi⟩ := roundMag_int_bounds (Int.natAbs_ne_zero.mpr ha) hle trunc
    rw [← habs] at hlo hhi
    have hvalue := fpRound_normal_value ruleOptions trunc false (Int.mul_ne_zero ha (Int.ne_of_gt hpos)) rfl hlo hhi
    rwa [hsign, habs] at hvalue

theorem fpFix_special (trunc : Bool) {a : Word} (h : fpExp a = 255) : fpFix trunc a =
    { word := if fpSign a then 0x80000000#32 else 0x7FFFFFFF#32, invalid := true, overflow := false,
      underflow := false } := by
  have hspecial : (isNaN a || isInf a) = true := by
    rw [isNaN, isInf, beq_of_eq h, Bool.true_and, Bool.true_and]
    cases hf : fpFrac a == 0
    · rw [bne, hf]
      rfl
    · exact Bool.or_true _
  rw [fpFix, if_pos hspecial]
  rfl

/-- Settles O48: FLOAT never leaves the normal range, and FIX is a rounded division by 2^149, saturated. -/
theorem conversionValues : Obligations.ConversionValues := by
  unfold Obligations.ConversionValues
  refine ⟨fun arch trunc a => ?_, fun arch trunc a => ?_⟩
  · rw [floatOf_ruleFp]
    exact fpFloat_value trunc a
  · rw [fixOf_ruleFp]
    refine ⟨fpFix_special trunc, fun hd => ?_, fun he hd => ?_⟩
    · rw [fpFix_denormal trunc hd]
      exact ⟨rfl, rfl⟩
    · rw [fpFix_finite trunc he hd, fixSaturate_eq]
      refine ⟨signedInt (fpSign a) (roundShift trunc (fpMag a) 149), ?_, ?_, signedInt_neg_iff, rfl, rfl⟩
      · rintro rfl
        rw [natAbs_signedInt]
        exact roundShift_true_bounds _ _
      · rintro rfl
        exact signedInt_nearest _ _ _

end Sys2Proof.Machine
end

section
/-! The five operations by default (R273, R275, R277 to R281): O47. -/

namespace Sys2Proof.Machine

/-! ## Signed products -/

theorem signedInt_xor_mul (s t : Bool) (m n : Nat) :
    signedInt (s != t) (m * n) = signedInt s m * signedInt t n := by
  cases s <;> cases t <;> simp [signedInt]

theorem unitsOfSum : ((1 <<< 149 : Nat) : Int) = 2 ^ 149 := by
  rw [Nat.one_shiftLeft]
  norm_num

/-- The exact product enters a fused operation with the sign of the operation. -/
theorem fmaProduct_fused {fp : FpConfig} (hf : fp.fused = true) (trunc negate : Bool) (a b : Word) :
    fmaProduct fp trunc ((fpSign a != fpSign b) != negate) a b =
      if negate then -(fpValue a * fpValue b) else fpValue a * fpValue b := by
  rw [fmaProduct, if_pos hf, fpValue, fpValue, ← signedInt_xor_mul]
  cases negate
  · rw [Bool.bne_false]
    rfl
  · rw [Bool.bne_true, signedInt_not]
    rfl

/-! ## Finite operands -/

section
variable (fp : FpConfig) (trunc : Bool) {a b c : Word} (ha : fpExp a ≠ 255) (hb : fpExp b ≠ 255)
include ha hb

theorem fpSum_finite (nanSign : Bool) : fpSum fp trunc nanSign a b =
    fpRound fp trunc (fpSign a && fpSign b) ((fpValue a + fpValue b) * 2 ^ 149) := by
  rw [fpSum, isNaN_of_finite ha, isNaN_of_finite hb, isInf_of_finite ha, isInf_of_finite hb, unitsOfSum]
  rfl

theorem fpAdd_finite : fpAdd fp trunc a b =
    fpRound fp trunc (fpSign a && fpSign b) ((fpValue (flushIn a) + fpValue (flushIn b)) * 2 ^ 149) := by
  rw [fpAdd, fpSum_finite fp trunc (by rwa [fpExp_flushIn]) (by rwa [fpExp_flushIn]), fpSign_flushIn, fpSign_flushIn]

theorem fpSub_finite : fpSub fp trunc a b =
    fpRound fp trunc (fpSign a && !fpSign b) ((fpValue (flushIn a) - fpValue (flushIn b)) * 2 ^ 149) := by
  rw [fpSub, fpSum_finite fp trunc (by rwa [fpExp_flushIn]) (by rwa [fpExp_negated, fpExp_flushIn]), fpSign_negated,
    fpSign_flushIn, fpSign_flushIn, fpValue_negated, Int.sub_eq_add_neg]

theorem productUndefined_finite : productUndefined (flushIn a) (flushIn b) = false := by
  rw [productUndefined, isInf_flushIn, isInf_flushIn, isInf_of_finite ha, isInf_of_finite hb, Bool.and_false,
    Bool.false_and, Bool.or_false]

theorem fpMul_finite : fpMul fp trunc a b =
    fpRound fp trunc (fpSign a != fpSign b) (fpValue (flushIn a) * fpValue (flushIn b)) := by
  simp only [fpMul, isNaN_flushIn, isInf_flushIn, fpSign_flushIn, productUndefined_finite ha hb, isNaN_of_finite ha,
    isNaN_of_finite hb, isInf_of_finite ha, isInf_of_finite hb]
  rfl

theorem fpFma_finite (hc : fpExp c ≠ 255) (hf : fp.fused = true) (negate nanSign : Bool) :
    fpFma fp trunc negate nanSign a b c =
      fpRound fp trunc (fpSign c && ((fpSign a != fpSign b) != negate)) (fpValue (flushIn c) * 2 ^ 149 +
        if negate then -(fpValue (flushIn a) * fpValue (flushIn b)) else fpValue (flushIn a) * fpValue (flushIn b)) := by
  rw [← fmaProduct_fused hf trunc negate (flushIn a) (flushIn b), ← unitsOfSum, Bool.and_comm (fpSign c)]
  simp only [fpFma, isNaN_flushIn, isInf_flushIn, fpSign_flushIn, productUndefined_finite ha hb, isNaN_of_finite ha,
    isNaN_of_finite hb, isNaN_of_finite hc, isInf_of_finite ha, isInf_of_finite hb, isInf_of_finite hc]
  rfl

end

/-- The magnitude of an overflow's word, and its sign. -/
theorem overflowWord_default (trunc sign : Bool) : fpSign (overflowWord ruleOptions trunc sign) = sign ∧
    overflowWord ruleOptions trunc sign &&& 0x7FFFFFFF#32 = if trunc then 0x7F7FFFFF#32 else 0x7F800000#32 := by
  cases trunc <;> cases sign <;> decide

theorem withSign_zero (sign : Bool) : withSign sign 0 = if sign then 0x80000000#32 else 0#32 := by
  cases sign <;> rfl

/-! ## Infinite operands -/

section
variable (fp : FpConfig) (trunc : Bool)

theorem fpSum_infinite_left (nanSign : Bool) {a b : Word} (ha : isInf a = true) (hb : isNaN b = false)
    (h : isInf b = true → fpSign a = fpSign b) : fpSum fp trunc nanSign a b = fpInfinite fp (fpSign a) := by
  rw [fpSum, if_neg, if_pos ha]
  rw [not_isNaN_and_isInf ha, hb, ha, Bool.false_or, Bool.false_or, Bool.true_and, Bool.and_eq_true, bne_iff_ne]
  exact fun hneg => hneg.2 (h hneg.1)

theorem fpSum_infinite_right (nanSign : Bool) {a b : Word} (ha : isNaN a = false) (hb : isInf b = true)
    (h : isInf a = true → fpSign a = fpSign b) : fpSum fp trunc nanSign a b = fpInfinite fp (fpSign b) := by
  cases hinf : isInf a
  · rw [fpSum, hinf, ha, not_isNaN_and_isInf hb, hb]
    rfl
  · rw [fpSum_infinite_left fp trunc nanSign hinf (not_isNaN_and_isInf hb) fun _ => h hinf, h hinf]

theorem fpSum_cancels (nanSign : Bool) {a b : Word} (ha : isInf a = true) (hb : isInf b = true)
    (h : fpSign a ≠ fpSign b) : fpSum fp trunc nanSign a b = fpInvalid fp nanSign := by
  rw [fpSum, if_pos]
  rw [ha, hb, bne_iff_ne.mpr h]
  exact Bool.or_true _

theorem fpAdd_infinite_left {a b : Word} (ha : isInf a = true) (hb : isNaN b = false)
    (h : isInf b = true → fpSign a = fpSign b) : fpAdd fp trunc a b = fpInfinite fp (fpSign a) :=
  (fpSum_infinite_left fp trunc _ (by rwa [isInf_flushIn]) (by rwa [isNaN_flushIn])
    (by rwa [isInf_flushIn, fpSign_flushIn, fpSign_flushIn])).trans (by rw [fpSign_flushIn])

theorem fpAdd_infinite_right {a b : Word} (ha : isNaN a = false) (hb : isInf b = true)
    (h : isInf a = true → fpSign a = fpSign b) : fpAdd fp trunc a b = fpInfinite fp (fpSign b) :=
  (fpSum_infinite_right fp trunc _ (by rwa [isNaN_flushIn]) (by rwa [isInf_flushIn])
    (by rwa [isInf_flushIn, fpSign_flushIn, fpSign_flushIn])).trans (by rw [fpSign_flushIn])

theorem fpAdd_cancels {a b : Word} (ha : isInf a = true) (hb : isInf b = true) (h : fpSign a ≠ fpSign b) :
    fpAdd fp trunc a b = fpInvalid fp true :=
  (fpSum_cancels fp trunc _ (by rwa [isInf_flushIn]) (by rwa [isInf_flushIn])
    (by rwa [fpSign_flushIn, fpSign_flushIn])).trans (by rw [bne_iff_ne.mpr h])

theorem fpSub_infinite_left {a b : Word} (ha : isInf a = true) (hb : isNaN b = false)
    (h : isInf b = true → fpSign a ≠ fpSign b) : fpSub fp trunc a b = fpInfinite fp (fpSign a) :=
  (fpSum_infinite_left fp trunc _ (by rwa [isInf_flushIn]) (by rwa [isNaN_negated, isNaN_flushIn]) (by
    rw [isInf_negated, isInf_flushIn, fpSign_negated, fpSign_flushIn, fpSign_flushIn]
    exact fun hinf => Bool.eq_not.mpr (h hinf))).trans (by rw [fpSign_flushIn])

theorem fpSub_infinite_right {a b : Word} (ha : isNaN a = false) (hb : isInf b = true)
    (h : isInf a = true → fpSign a ≠ fpSign b) : fpSub fp trunc a b = fpInfinite fp (!fpSign b) :=
  (fpSum_infinite_right fp trunc _ (by rwa [isNaN_flushIn]) (by rwa [isInf_negated, isInf_flushIn]) (by
    rw [isInf_flushIn, fpSign_negated, fpSign_flushIn, fpSign_flushIn]
    exact fun hinf => Bool.eq_not.mpr (h hinf))).trans (by rw [fpSign_negated, fpSign_flushIn])

theorem fpSub_cancels {a b : Word} (ha : isInf a = true) (hb : isInf b = true) (h : fpSign a = fpSign b) :
    fpSub fp trunc a b = fpInvalid fp false :=
  (fpSum_cancels fp trunc _ (by rwa [isInf_flushIn]) (by rwa [isInf_negated, isInf_flushIn]) (by
    rw [fpSign_negated, fpSign_flushIn, fpSign_flushIn, h]
    exact (Bool.not_ne_self _).symm)).trans (by rw [h, bne_self_eq_false])

/-- Beside an infinity, the product is undefined just where the other operand is a zero. -/
theorem productUndefined_iff {a b : Word} (h : isInf a = true ∨ isInf b = true) :
    productUndefined a b = true ↔ isZero a = true ∨ isZero b = true := by
  simp only [productUndefined, Bool.or_eq_true, Bool.and_eq_true]
  constructor
  · exact Or.imp And.left And.right
  · rintro (hz | hz)
    · refine .inl ⟨hz, h.resolve_left fun hinf => ?_⟩
      rw [not_isZero_of_isInf hinf] at hz
      exact Bool.false_ne_true hz
    · refine .inr ⟨h.resolve_right fun hinf => ?_, hz⟩
      rw [not_isZero_of_isInf hinf] at hz
      exact Bool.false_ne_true hz

variable {a b c : Word}

theorem fpMul_undefined (h : productUndefined (flushIn a) (flushIn b) = true) :
    fpMul fp trunc a b = fpInvalid fp (fpSign a != fpSign b) := by
  simp only [fpMul, h, Bool.or_true, if_true, fpSign_flushIn]

theorem fpMul_infinite (ha : isNaN a = false) (hb : isNaN b = false) (hinf : isInf a = true ∨ isInf b = true)
    (h : productUndefined (flushIn a) (flushIn b) = false) :
    fpMul fp trunc a b = fpInfinite fp (fpSign a != fpSign b) := by
  rw [← Bool.or_eq_true] at hinf
  simp only [fpMul, isNaN_flushIn, isInf_flushIn, fpSign_flushIn, ha, hb, h, hinf]
  rfl

variable (negate nanSign : Bool)

theorem fpFma_undefined (h : productUndefined (flushIn a) (flushIn b) = true) :
    fpFma fp trunc negate nanSign a b c = fpInvalid fp nanSign := by
  simp only [fpFma, h, Bool.or_true, Bool.true_or, if_true]

theorem fpFma_cancels (hinf : isInf a = true ∨ isInf b = true) (hc : isInf c = true)
    (h : fpSign c ≠ ((fpSign a != fpSign b) != negate)) :
    fpFma fp trunc negate nanSign a b c = fpInvalid fp nanSign := by
  rw [← Bool.or_eq_true] at hinf
  simp only [fpFma, isInf_flushIn, fpSign_flushIn, hinf, hc, bne_iff_ne.mpr h.symm, Bool.true_and, Bool.or_true, if_true]

theorem fpFma_infinite (ha : isNaN a = false) (hb : isNaN b = false) (hc : isNaN c = false)
    (hinf : isInf a = true ∨ isInf b = true) (hdef : productUndefined (flushIn a) (flushIn b) = false)
    (h : isInf c = true → fpSign c = ((fpSign a != fpSign b) != negate)) :
    fpFma fp trunc negate nanSign a b c = fpInfinite fp ((fpSign a != fpSign b) != negate) := by
  have hagree : (isInf c && (((fpSign a != fpSign b) != negate) != fpSign c)) = false := by
    cases hci : isInf c
    · rfl
    · rw [h hci, bne_self_eq_false, Bool.and_false]
  rw [← Bool.or_eq_true] at hinf
  simp only [fpFma, isNaN_flushIn, isInf_flushIn, fpSign_flushIn, ha, hb, hc, hinf, hdef, Bool.true_and, hagree]
  rfl

theorem fpFma_addend (ha : isNaN a = false) (hb : isNaN b = false) (hai : isInf a = false) (hbi : isInf b = false)
    (hc : isInf c = true) : fpFma fp trunc negate nanSign a b c = fpInfinite fp (fpSign c) := by
  have hdef : productUndefined (flushIn a) (flushIn b) = false := by
    rw [productUndefined, isInf_flushIn, isInf_flushIn, hai, hbi, Bool.and_false, Bool.false_and, Bool.or_false]
  simp only [fpFma, isNaN_flushIn, isInf_flushIn, fpSign_flushIn, ha, hb, hai, hbi, hc, not_isNaN_and_isInf hc, hdef]
  rfl

end

theorem eq_of_fpInfinite {sign : Bool} {r : FpResult} (h : r = fpInfinite ruleOptions sign) : r =
    { word := if sign then 0xFF800000#32 else 0x7F800000#32, invalid := false, overflow := true,
      underflow := false } := by
  rw [h, fpInfinite, infinity_eq]
  rfl

theorem fields_of_fpInvalid {fp : FpConfig} {sign : Bool} {r : FpResult} (h : r = fpInvalid fp sign) :
    fpExp r.word = 255 ∧ r.word.getLsbD 22 = true ∧ fpSign r.word = sign ∧ r.invalid = true ∧ r.overflow = false ∧
      r.underflow = false := by
  rw [h]
  exact ⟨fpExp_qNaN fp sign, quiet_qNaN fp sign, fpSign_qNaN fp sign, rfl, rfl, rfl⟩

theorem fpArith_fma (arch : Arch) (trunc nanSign negate : Bool) (a b c : Word) :
    fpArith ruleFp arch (if negate then .fmsub else .fmadd) trunc nanSign a b c =
      fpFma ruleOptions trunc negate nanSign a b c := by
  rw [fpArith_ruleFp]
  cases negate <;> rfl

/-- Each of the five, of finite operands: the one rounding of its exact result. -/
theorem fpArith_finite (arch : Arch) (trunc nanSign : Bool) {a b c : Word} (ha : fpExp a ≠ 255) (hb : fpExp b ≠ 255)
    (hc : fpExp c ≠ 255) :
    ∀ p ∈ [(fpArith ruleFp arch .fadd trunc nanSign a b c, (fpValue (flushIn a) + fpValue (flushIn b)) * 2 ^ 149,
          fpSign a && fpSign b),
        (fpArith ruleFp arch .fsub trunc nanSign a b c, (fpValue (flushIn a) - fpValue (flushIn b)) * 2 ^ 149,
          fpSign a && !fpSign b),
        (fpArith ruleFp arch .fmul trunc nanSign a b c, fpValue (flushIn a) * fpValue (flushIn b),
          fpSign a != fpSign b),
        (fpArith ruleFp arch .fmadd trunc nanSign a b c,
          fpValue (flushIn c) * 2 ^ 149 + fpValue (flushIn a) * fpValue (flushIn b),
          fpSign c && (fpSign a != fpSign b)),
        (fpArith ruleFp arch .fmsub trunc nanSign a b c,
          fpValue (flushIn c) * 2 ^ 149 - fpValue (flushIn a) * fpValue (flushIn b),
          fpSign c && (fpSign a == fpSign b))],
      p.1 = fpRound ruleOptions trunc p.2.2 p.2.1 := by
  simp only [fpArith_ruleFp, List.forall_mem_cons, List.not_mem_nil, false_imp_iff, implies_true, and_true]
  refine ⟨fpAdd_finite _ _ ha hb, fpSub_finite _ _ ha hb, fpMul_finite _ _ ha hb, ?_, ?_⟩
  · exact (fpFma_finite ruleOptions trunc ha hb hc rfl false nanSign).trans (by
      rw [Bool.bne_false, if_neg Bool.false_ne_true])
  · exact (fpFma_finite ruleOptions trunc ha hb hc rfl true nanSign).trans (by
      rw [Bool.bne_true, bne, Bool.not_not, if_pos rfl, Int.sub_eq_add_neg])

/-- Settles O47: finite operands go through the pipeline, infinite ones by the cases of each operation. -/
theorem finiteArithmeticIsRounded : Obligations.FiniteArithmeticIsRounded := by
  unfold Obligations.FiniteArithmeticIsRounded
  refine ⟨fun arch trunc nanSign a b c ha hb hc => ?_, fun arch trunc nanSign negate a b c ha hb hc => ?_⟩
  · intro res
    rintro ⟨r, x, zeroSign⟩ hp
    obtain rfl : r = fpRound ruleOptions trunc zeroSign x := fpArith_finite arch trunc nanSign ha hb hc _ hp
    refine ⟨fun hx hlo hhi => ?_, fun hx hhi => ?_, fun hx hlo => ?_, ?_⟩
    · obtain ⟨hfinite, hvalue⟩ := fpRound_normal_value ruleOptions trunc zeroSign hx rfl hlo hhi
      refine ⟨hfinite, hvalue, ?_⟩
      rw [fpRound_normal ruleOptions trunc zeroSign hx rfl hlo hhi]
      exact ⟨rfl, rfl, rfl⟩
    · rw [fpRound_overflow ruleOptions trunc zeroSign hx hhi]
      exact ⟨rfl, rfl, rfl, overflowWord_default trunc _⟩
    · rw [fpRound_underflow ruleOptions trunc zeroSign hx rfl hlo]
      refine ⟨rfl, rfl, rfl, (withSign_zero _).trans ?_⟩
      simp only [decide_eq_true_eq]
    · intro hx
      dsimp only at hx ⊢
      rw [hx, fpRound_zero]
      exact ⟨withSign_zero zeroSign, rfl, rfl, rfl⟩
  · intro res fma infinite undefined zero xor
    have hadd : res .fadd = fpAdd ruleOptions trunc a b := fpArith_ruleFp arch .fadd trunc nanSign a b c
    have hsub : res .fsub = fpSub ruleOptions trunc a b := fpArith_ruleFp arch .fsub trunc nanSign a b c
    have hmul : res .fmul = fpMul ruleOptions trunc a b := fpArith_ruleFp arch .fmul trunc nanSign a b c
    have hfma : fma = fpFma ruleOptions trunc negate nanSign a b c := fpArith_fma arch trunc nanSign negate a b c
    refine ⟨fun hai h => eq_of_fpInfinite (hadd.trans (fpAdd_infinite_left _ trunc hai hb h)),
      fun hbi h => eq_of_fpInfinite (hadd.trans (fpAdd_infinite_right _ trunc ha hbi h)),
      fun hai hbi h => fields_of_fpInvalid (hadd.trans (fpAdd_cancels _ trunc hai hbi h)),
      fun hai h => eq_of_fpInfinite (hsub.trans (fpSub_infinite_left _ trunc hai hb h)),
      fun hbi h => eq_of_fpInfinite (hsub.trans (fpSub_infinite_right _ trunc ha hbi h)),
      fun hai hbi h => fields_of_fpInvalid (hsub.trans (fpSub_cancels _ trunc hai hbi h)), fun hinf => ?_,
      fun hai hbi hci => eq_of_fpInfinite (hfma.trans (fpFma_addend _ trunc negate nanSign ha hb hai hbi hci))⟩
    have hzero : productUndefined (flushIn a) (flushIn b) = true ↔ zero :=
      productUndefined_iff (by rwa [isInf_flushIn, isInf_flushIn])
    have hdef : ¬ zero → productUndefined (flushIn a) (flushIn b) = false :=
      fun h => Bool.eq_false_iff.mpr (mt hzero.mp h)
    exact ⟨fun h => fields_of_fpInvalid (hmul.trans (fpMul_undefined _ trunc (hzero.mpr h))),
      fun h => eq_of_fpInfinite (hmul.trans (fpMul_infinite _ trunc ha hb hinf (hdef h))),
      fun h => fields_of_fpInvalid (hfma.trans (fpFma_undefined _ trunc negate nanSign (hzero.mpr h))),
      fun _ hci hs => fields_of_fpInvalid (hfma.trans (fpFma_cancels _ trunc negate nanSign hinf hci hs)),
      fun h hs => eq_of_fpInfinite (hfma.trans (fpFma_infinite _ trunc negate nanSign ha hb hc hinf (hdef h) hs))⟩

end Sys2Proof.Machine
end
